-- ==== Sys2Proof/Word.lean ====
section
/-! DEFINITION. The word types of the engine: bytes (00_scope.md R6) and 16-bit words (20_memory.md R60, R62). -/

namespace Sys2Proof

/-- One byte: every value 0 to 255 is legal (R6). -/
abbrev Byte := BitVec 8

/-- A command word, a 16-bit control register, a bus address (R20, R60, R91). -/
abbrev Word := BitVec 16

/-- A 64-bit word of the BLAKE2b instance (45_keyed_hash_blake2b.md, notation). -/
abbrev Word64 := BitVec 64

end Sys2Proof
end

