-- ==== Sys2Proof/Config.lean ====
section
/-! DEFINITION. What an implementation fixes: the constants of R7 and R8, and the open parameters of R9
(`PAD`, `SECRET`, `SECRET_LEN`, `KH`), which have no body here so that no proof can see their value. -/

namespace Sys2Proof

/-- The type of a keyed hash `KH(key, salt, n, data)` (R112): total, a function of its four arguments, its
result exactly `n` bytes long. `salt = []` is the spec's "no salt". -/
abbrev Kh := List Byte → List Byte → (n : Nat) → List Byte → Vector Byte n

/-- The configuration straps sampled at hard reset (R9, R49). `SECRET_LEN` is 7 bits wide (R8), so illegal
lengths (0, 65 to 127) can be strapped. -/
structure Straps where
  pad : Byte
  secret : Vector Byte 64
  secretLen : BitVec 7
deriving DecidableEq, Repr, Inhabited

/-- Which keyed hash the machine has (R9 lists `KH` among the open parameters). DESIGN CHOICE, log 5. -/
inductive HashInstance where
  /-- the open parameter itself: the `id`-th of the uninterpreted functions `Config.openHash` (R112, R113); a hard
  reset can sample one of another `id`, of which nothing more is known -/
  | openHash (id : Nat)
  /-- the informative instance KH_B2B of 45_keyed_hash_blake2b.md -/
  | blake2b
  /-- the stand-in KH_TOY of 95_test_vectors.md part 2 -/
  | toy
deriving DecidableEq, Repr

namespace Config

/-- BLOCK_SIZE (R7). -/
@[simp] abbrev blockSize : Nat := 64
/-- SALT_SIZE (R7). -/
@[simp] abbrev saltSize : Nat := 16
/-- KEY_MIN (R7). -/
@[simp] abbrev keyMin : Nat := 1
/-- KEY_MAX (R7). -/
@[simp] abbrev keyMax : Nat := 64
/-- SECRET_MIN (R7). -/
@[simp] abbrev secretMin : Nat := 1
/-- SECRET_MAX (R7). -/
@[simp] abbrev secretMax : Nat := 64
/-- MSG_MIN (R7). -/
@[simp] abbrev msgMin : Nat := 2
/-- MSG_MAX (R8). -/
@[simp] abbrev msgMax : Nat := 4096
/-- HALF_MAX = MSG_MAX / 2 (R8). -/
@[simp] abbrev halfMax : Nat := 2048
/-- NKEYS_MAX (R8). -/
@[simp] abbrev nkeysMax : Nat := 32
/-- BLKLEN_MAX (R8). -/
@[simp] abbrev blkLenMax : Nat := 127

/-- The keyed hashes no source names (R112, R113), one for each number: uninterpreted. Free value, log 5. -/
opaque openHash : Nat → Kh

/-- The straps as they stood at the last hard reset (R9: values no source gives). Free value, log 4. -/
opaque straps : Straps

/-- What a buffer byte reads as that nothing has written since the reset of `State.reset`. R50 leaves it
unspecified; 0xEE is the byte the spec's own vectors take (95_test_vectors.md part 5). DESIGN CHOICE
(unsafe), log 6. -/
def residue : Byte := 0xEE#8

end Config

end Sys2Proof
end

