-- ==== Sys2Proof/Syntax.lean ====
section
/-! DEFINITION. The commands, one constructor per row of spec/opcode_table.json (30_encoding.md R93). -/

namespace Sys2Proof

/-- The engine's commands. Key slots and block indices are unsigned integers (R92); `dir` is `ARG[0]`. -/
inductive Instr where
  | nop
  | clrerr
  | sreset
  /-- SPLIT: `dir = false` is SPLIT.E (encode order), `dir = true` is SPLIT.D (R170) -/
  | split (dir : Bool)
  /-- FAPPLY k (R172) -/
  | fapply (k : Nat)
  | xorl
  | swap
  | round
  | join
  /-- STRIP 0: FC's heuristic (R180) -/
  | stripH
  /-- STRIP 1: out of band, original length even (R180) -/
  | stripE
  /-- STRIP 3: out of band, original length odd (R180) -/
  | stripO
  /-- BLKLOAD i (R150) -/
  | blkload (i : Nat)
  | blkpad
  | salt
  /-- HASH k (R156) -/
  | hash (k : Nat)
  /-- EMIT i (R158) -/
  | emit (i : Nat)
  | encode
  /-- DECODE 0: strip by FC's heuristic (R202) -/
  | decodeH
  /-- DECODE 1: out of band, original length even (R202) -/
  | decodeE
  /-- DECODE 3: out of band, original length odd (R202) -/
  | decodeO
deriving DecidableEq, Repr

end Sys2Proof
end

