-- ==== Sys2Proof/WellFormed.lean ====
section
/-! DEFINITION. When a command has an encoding: its key slot or block index fits the 8-bit `ARG` field
(30_encoding.md R91, R92). Every other operand is well-formed by its type. -/

namespace Sys2Proof

/-- An operand that stands whole in the 8-bit `ARG` field (R92: "an unsigned integer 0 to 255"). -/
def argFits (n : Nat) : Bool := decide (n < 256)

/-- The command has a word of its own (R95). -/
def Instr.wellFormed : Instr → Bool
  | .fapply k => argFits k
  | .blkload i => argFits i
  | .hash k => argFits k
  | .emit i => argFits i
  | .nop => true
  | .clrerr => true
  | .sreset => true
  | .split _ => true
  | .xorl => true
  | .swap => true
  | .round => true
  | .join => true
  | .stripH => true
  | .stripE => true
  | .stripO => true
  | .blkpad => true
  | .salt => true
  | .encode => true
  | .decodeH => true
  | .decodeE => true
  | .decodeO => true

end Sys2Proof
end

