-- ==== Sys2Proof/Decode.lean ====
section
/-! DEFINITION. The command decoder, total on all 65536 words (30_encoding.md R90 step 5, R93, R95), and the
encoder written from the same table. -/

namespace Sys2Proof

/-- Why a word is no command: it is in no row of the opcode map (R95). -/
inductive DecodeError where
  | illegalCommand (w : Word)
deriving DecidableEq, Repr

/-- One row of the opcode map (R93): word `w` is the command exactly when `w & mask = value`. -/
structure OpRow where
  mask : Word
  value : Word
  build : Word → Instr

/-- The field `OPC` = w[15:8] (R91). -/
def opcField (w : Word) : Nat := (w >>> 8).toNat

/-- The field `ARG` = w[7:0] (R91). -/
def argField (w : Word) : Nat := (w &&& 0x00FF#16).toNat

/-- The flag `DIR` = ARG[0] of SPLIT (R92). -/
def dirField (w : Word) : Bool := w.getLsbD 0

/-- The opcode map, row by row in the order of spec/opcode_table.json (R93). -/
def opRows : List OpRow :=
  [ ⟨0xFFFF#16, 0x0000#16, fun _ => .nop⟩,
    ⟨0xFFFF#16, 0x0100#16, fun _ => .clrerr⟩,
    ⟨0xFFFF#16, 0x0200#16, fun _ => .sreset⟩,
    ⟨0xFFFE#16, 0x1000#16, fun w => .split (dirField w)⟩,
    ⟨0xFF00#16, 0x1100#16, fun w => .fapply (argField w)⟩,
    ⟨0xFFFF#16, 0x1200#16, fun _ => .xorl⟩,
    ⟨0xFFFF#16, 0x1300#16, fun _ => .swap⟩,
    ⟨0xFFFF#16, 0x1400#16, fun _ => .round⟩,
    ⟨0xFFFF#16, 0x1500#16, fun _ => .join⟩,
    ⟨0xFFFF#16, 0x1600#16, fun _ => .stripH⟩,
    ⟨0xFFFF#16, 0x1601#16, fun _ => .stripE⟩,
    ⟨0xFFFF#16, 0x1603#16, fun _ => .stripO⟩,
    ⟨0xFF00#16, 0x2000#16, fun w => .blkload (argField w)⟩,
    ⟨0xFFFF#16, 0x2100#16, fun _ => .blkpad⟩,
    ⟨0xFFFF#16, 0x2200#16, fun _ => .salt⟩,
    ⟨0xFF00#16, 0x2300#16, fun w => .hash (argField w)⟩,
    ⟨0xFF00#16, 0x2400#16, fun w => .emit (argField w)⟩,
    ⟨0xFFFF#16, 0x3000#16, fun _ => .encode⟩,
    ⟨0xFFFF#16, 0x3100#16, fun _ => .decodeH⟩,
    ⟨0xFFFF#16, 0x3101#16, fun _ => .decodeE⟩,
    ⟨0xFFFF#16, 0x3103#16, fun _ => .decodeO⟩ ]

/-- Decode a command word: the one row it fits, or `IllegalCommand` (R95). -/
def decode (w : Word) : Except DecodeError Instr :=
  match opRows.find? (fun r => w &&& r.mask == r.value) with
  | some r => .ok (r.build w)
  | none => .error (.illegalCommand w)

/-- `(OPC << 8) + operand` (R97). -/
def cmdWord (opc arg : Nat) : Word := BitVec.ofNat 16 (opc * 256 + arg)

/-- The word of a command (R93, R97). -/
def encode : Instr → Word
  | .nop => cmdWord 0x00 0
  | .clrerr => cmdWord 0x01 0
  | .sreset => cmdWord 0x02 0
  | .split dir => cmdWord 0x10 dir.toNat
  | .fapply k => cmdWord 0x11 k
  | .xorl => cmdWord 0x12 0
  | .swap => cmdWord 0x13 0
  | .round => cmdWord 0x14 0
  | .join => cmdWord 0x15 0
  | .stripH => cmdWord 0x16 0
  | .stripE => cmdWord 0x16 1
  | .stripO => cmdWord 0x16 3
  | .blkload i => cmdWord 0x20 i
  | .blkpad => cmdWord 0x21 0
  | .salt => cmdWord 0x22 0
  | .hash k => cmdWord 0x23 k
  | .emit i => cmdWord 0x24 i
  | .encode => cmdWord 0x30 0
  | .decodeH => cmdWord 0x31 0
  | .decodeE => cmdWord 0x31 1
  | .decodeO => cmdWord 0x31 3

/-- The 16 bits of an instruction of `nbits` table bits whose value is `w`; bits above `nbits` are 0. -/
def tableWord (nbits w : Nat) : Word := BitVec.ofNat 16 (w % 2 ^ nbits)

/-- What the decoder reads from the `nbits` bits `w` of a table row. Every command is one 16-bit word (R96), so
a longer one does not exist. -/
def decodeTableWord (nbits w : Nat) : Option Instr :=
  if nbits ≤ 16 then
    match decode (tableWord nbits w) with
    | .ok i => some i
    | .error _ => none
  else none

end Sys2Proof
end

