-- ==== Sys2Proof/Machine/Map.lean ====
section
/-! DEFINITION. The address map (20_memory.md R66): where each buffer stands, which addresses are control
registers, which are reserved. The engine itself reaches a buffer by base and index (R61, R78). -/

namespace Sys2Proof.Machine

namespace Map

/-- `BLK`, 64 bytes. -/
@[simp] abbrev blk : Nat := 0x0040
/-- `SALTREG`, 16 bytes. -/
@[simp] abbrev salt : Nat := 0x0080
/-- `DIG`, 64 bytes. -/
@[simp] abbrev dig : Nat := 0x00C0
/-- `KLEN`, 32 entries. -/
@[simp] abbrev klen : Nat := 0x0100
/-- `KEYMEM`, 32 slots of 64 bytes. -/
@[simp] abbrev keymem : Nat := 0x0800
/-- `MSG`, 4096 bytes. -/
@[simp] abbrev msg : Nat := 0x1000
/-- `OUT`, 4096 bytes. -/
@[simp] abbrev out : Nat := 0x2000
/-- `L`, 2048 bytes. -/
@[simp] abbrev left : Nat := 0x3000
/-- `R`, 2048 bytes. -/
@[simp] abbrev right : Nat := 0x3800
/-- `FOUT`, 2048 bytes. -/
@[simp] abbrev fout : Nat := 0x4000

end Map

/-- `a` is one of the `size` addresses from `base` on. -/
def inRegion (base size a : Nat) : Bool := decide (base ≤ a ∧ a < base + size)

/-- The buffers whose bytes a reset sets to 0x00: `SALTREG`, `DIG`, `KLEN` (R50, R51). -/
def isZeroed (a : Nat) : Bool :=
  inRegion Map.salt 16 a || inRegion Map.dig 64 a || inRegion Map.klen 32 a

/-- The seven buffers whose bytes are unspecified after hard reset and untouched by SRESET (R50, R51). -/
def isResidual (a : Nat) : Bool :=
  inRegion Map.blk 64 a || inRegion Map.keymem 2048 a || inRegion Map.msg 4096 a ||
  inRegion Map.out 4096 a || inRegion Map.left 2048 a || inRegion Map.right 2048 a ||
  inRegion Map.fout 2048 a

/-- A mapped buffer address (R66): neither a control register nor reserved. -/
def isBuffer (a : Nat) : Bool := isZeroed a || isResidual a

/-- The control registers (R66, 0x0000 to 0x0017). -/
inductive CtrlReg where
  | cmd | status | errcode | errinfo | msgLen | outLen | hlen | flen | nkeys | rnd | blkLen | cfgr
deriving DecidableEq, Repr

/-- Addresses 0x0000 to 0x003F take 2-byte accesses only (R64). -/
def isCtrl (a : Nat) : Bool := decide (a < 0x40)

/-- The control register at an even address (R66); `none` where the address is reserved. -/
def ctrlReg (a : Nat) : Option CtrlReg :=
  match a with
  | 0x00 => some .cmd
  | 0x02 => some .status
  | 0x04 => some .errcode
  | 0x06 => some .errinfo
  | 0x08 => some .msgLen
  | 0x0A => some .outLen
  | 0x0C => some .hlen
  | 0x0E => some .flen
  | 0x10 => some .nkeys
  | 0x12 => some .rnd
  | 0x14 => some .blkLen
  | 0x16 => some .cfgr
  | _ => none

end Sys2Proof.Machine
end

