-- ==== Sys2Proof/Machine/Memory.lean ====
section
/-! DEFINITION. The byte storage of the buffers: a sparse list of cells in one canonical form (addresses
strictly rising, no cell equal to what an unlisted address reads as). -/

namespace Sys2Proof.Machine

/-- The buffers' bytes by bus address (R66). -/
abbrev Mem := List Host.Cell

/-- What an address no cell lists reads as: 0x00 in the buffers a reset clears (R50), and in the others the
one byte log 6 names. -/
def unwritten (a : Nat) : Byte := if isZeroed a then 0#8 else Config.residue

/-- The byte at an address. -/
def Mem.get (m : Mem) (a : Nat) : Byte := (m.lookup a).getD (unwritten a)

/-- The `n` bytes from `a` on, lower address first (R79). -/
def Mem.slice (m : Mem) (a n : Nat) : List Byte := (List.range n).map (fun j => m.get (a + j))

/-- The cells of a byte string stored at `a`, less those an unlisted address reads as anyway. -/
def cellsAt (a : Nat) : List Byte → Mem
  | [] => []
  | b :: bs => if b = unwritten a then cellsAt (a + 1) bs else (a, b) :: cellsAt (a + 1) bs

/-- Store a byte string at `a`, byte `j` at `a + j` (R13, R79), and touch no other byte. -/
def Mem.put (m : Mem) (a : Nat) (bs : List Byte) : Mem :=
  m.filter (fun c => decide (c.1 < a)) ++ cellsAt a bs ++
    m.filter (fun c => decide (a + bs.length ≤ c.1))

/-- Addresses strictly rising. -/
def addressesRise : Mem → Bool
  | [] => true
  | [_] => true
  | c :: d :: m => decide (c.1 < d.1) && addressesRise (d :: m)

/-- The canonical form. -/
def Mem.wf (m : Mem) : Bool := addressesRise m && m.all (fun c => decide (c.2 ≠ unwritten c.1))

/-- Only mapped buffer addresses are listed (R66: nothing is stored at a reserved address). -/
def Mem.mapped (m : Mem) : Bool := m.all (fun c => isBuffer c.1)

/-- The memory a hard reset leaves when the seven unspecified buffers come up with the bytes of `image`
(R291: an argument of the model); cells of `image` outside them count for nothing. -/
def Mem.ofImage (image : List Host.Cell) : Mem :=
  image.foldl (fun m c => if isResidual c.1 then m.put c.1 [c.2] else m) []

end Sys2Proof.Machine
end

