-- ==== Sys2Proof/Machine/State.lean ====
section
/-! DEFINITION. The state of one engine (10_state.md R20) with its straps (R49, R50), the host actions still to
come and the answers given, and the state after hard reset (R50). -/

namespace Sys2Proof.Machine

/-- What the host does to the engine (00_scope.md R10, 20_memory.md R62, 70_reset_and_hazards.md R290). Widths
other than 1 and 2 bytes do not exist. -/
inductive HostAction where
  /-- `MemRead(addr, 1)` -/
  | read8 (addr : Word)
  /-- `MemRead(addr, 2)` -/
  | read16 (addr : Word)
  /-- `MemWrite(addr, 1, v)` -/
  | write8 (addr : Word) (v : Byte)
  /-- `MemWrite(addr, 2, v)` -/
  | write16 (addr : Word) (v : Word)
  /-- assertion and release of the reset input: the straps and the keyed hash it samples (R9, R49), and the
  arbitrary contents the seven unspecified buffers come up with (R290, R291) -/
  | hardReset (straps : Straps) (kh : HashInstance) (image : List Host.Cell)
deriving DecidableEq, Repr

/-- The response to a bus transaction (R62). -/
inductive BusResponse where
  /-- `OK` to a write -/
  | ok
  /-- `OK(v)` to a 1-byte read -/
  | okByte (v : Byte)
  /-- `OK(v)` to a 2-byte read -/
  | okWord (v : Word)
  /-- `ERR`: nothing was done (R73) -/
  | err
deriving DecidableEq, Repr

/-- The state. Flags are the bits of `STATUS` (R33); `mem` holds `BLK`, `SALTREG`, `DIG`, `KLEN`, `KEYMEM`,
`MSG`, `OUT`, `L`, `R`, `FOUT` at their bus addresses (R66). -/
structure State where
  /-- `CMD` (R38) -/
  cmd : Word
  /-- `STATUS.ERR` (R34) -/
  err : Bool
  /-- `STATUS.PADDED` (R35) -/
  padded : Bool
  /-- `STATUS.DIR` (R36) -/
  dir : Bool
  /-- `STATUS.STRIPPED` (R37) -/
  stripped : Bool
  /-- `ERRCODE` (R39) -/
  errcode : Word
  /-- `ERRINFO` (R40) -/
  errinfo : Word
  /-- `MSG_LEN` (R41) -/
  msgLen : Word
  /-- `OUT_LEN` (R42) -/
  outLen : Word
  /-- `HLEN` (R42) -/
  hlen : Word
  /-- `FLEN` (R42) -/
  flen : Word
  /-- `NKEYS` (R43) -/
  nkeys : Word
  /-- `RND` (R32) -/
  rnd : Word
  /-- `BLK_LEN` (R43) -/
  blkLen : Word
  /-- the byte buffers (R22 to R26, R45 to R48) -/
  mem : Mem
  /-- `PAD`, `SECRET`, `SECRET_LEN` as sampled at the last hard reset (R50); log 3 -/
  straps : Straps
  /-- which `KH` the machine has, as sampled at the last hard reset (R9, R49, R112); log 3, log 5 -/
  kh : HashInstance
  /-- the model's own: host actions still to come, oldest first; log 1 -/
  pending : List HostAction
  /-- the model's own: bus responses given so far, newest first; log 1 -/
  answers : List BusResponse
deriving DecidableEq, Repr

/-- Reasons for the machine to stop. There are none: every command and every transaction ends in a next state
(70_reset_and_hazards.md R300), bad commands are recorded in `ERR`, `ERRCODE`, `ERRINFO` (R270) and bad
transactions are answered `ERR` (R274). No constructor, so nobody raises one. -/
inductive Fault where
deriving DecidableEq, Repr

/-- Reasons to refuse an instruction. -/
inductive Refusal where
  /-- raised by an arm of `exec` whose instruction has no meaning yet (safe: nothing is claimed of it); no arm
  does -/
  | notModelled (mnemonic : String)
deriving DecidableEq, Repr

/-- The machine right after hard reset (R50), nothing pending, nothing answered. -/
def State.reset : State where
  cmd := 0
  err := false
  padded := false
  dir := false
  stripped := false
  errcode := 0
  errinfo := 0
  msgLen := 0
  outLen := 0
  hlen := 0
  flen := 0
  nkeys := 0
  rnd := 0
  blkLen := 0
  mem := []
  straps := Config.straps
  kh := .openHash 0
  pending := []
  answers := []

end Sys2Proof.Machine
end

