-- ==== Sys2Proof/Machine/Errors.lean ====
section
/-! DEFINITION. The command errors, their codes and information words (60_exceptions.md R261). -/

namespace Sys2Proof.Machine

/-- Why a command failed, with the datum its information word is made of (R261). -/
inductive CmdError where
  /-- code 1, reserved: raised by nothing (R262) -/
  | notAString
  /-- SPLIT, ENCODE, DECODE: `MSG_LEN` < 2 -/
  | tooShort (len : Nat)
  /-- HASH, FAPPLY, ROUND, ENCODE, DECODE: the key of slot `k` has an illegal length -/
  | badKeyLength (k len : Nat)
  /-- FAPPLY, ROUND: `HLEN` = 0 -/
  | emptyHalf
  /-- SALT, HASH: `BLK_LEN` ≠ 64 -/
  | badBlockSize (len : Nat)
  /-- SALT, FAPPLY, ROUND, ENCODE, DECODE: the strap `SECRET_LEN` is illegal -/
  | badSecretLength (len : Nat)
  /-- BLKPAD: `BLK_LEN` = 0 or > 64 -/
  | badPadTarget (len : Nat)
  /-- XORL: `FLEN` ≠ `HLEN`; `len` is `FLEN` -/
  | lengthMismatch (len : Nat)
  /-- ENCODE, DECODE: `NKEYS` = 0 -/
  | emptyKeyList
  /-- BLKLOAD, EMIT: no such block; HASH, FAPPLY: no such key slot -/
  | indexRange (i : Nat)
  /-- ROUND: `RND` ≥ `NKEYS` -/
  | roundOverrun (rnd : Nat)
  /-- a word that is no legal encoding (R95) -/
  | illegalCommand (w : Word)
deriving DecidableEq, Repr

/-- The value `ERRCODE` takes (R261). -/
def CmdError.code : CmdError → Word
  | .notAString => 1
  | .tooShort _ => 2
  | .badKeyLength _ _ => 3
  | .emptyHalf => 4
  | .badBlockSize _ => 5
  | .badSecretLength _ => 6
  | .badPadTarget _ => 7
  | .lengthMismatch _ => 8
  | .emptyKeyList => 9
  | .indexRange _ => 10
  | .roundOverrun _ => 11
  | .illegalCommand _ => 12

/-- The value `ERRINFO` takes, `info mod 2^16` (R261, R270). -/
def CmdError.info : CmdError → Word
  | .notAString => 0
  | .tooShort n => BitVec.ofNat 16 n
  | .badKeyLength k n => BitVec.ofNat 16 (256 * k + n)
  | .emptyHalf => 0
  | .badBlockSize n => BitVec.ofNat 16 n
  | .badSecretLength n => BitVec.ofNat 16 n
  | .badPadTarget n => BitVec.ofNat 16 n
  | .lengthMismatch n => BitVec.ofNat 16 n
  | .emptyKeyList => 0
  | .indexRange i => BitVec.ofNat 16 i
  | .roundOverrun r => BitVec.ofNat 16 r
  | .illegalCommand w => w

end Sys2Proof.Machine
end

