-- ==== Sys2Proof/Machine/Blake2b.lean ====
section
/-! DEFINITION. The informative instance KH_B2B of the keyed hash: BLAKE2b with key and salt
(45_keyed_hash_blake2b.md R230 to R237). No command depends on it. -/

namespace Sys2Proof.Machine

/-- The byte string cut or zero-filled to exactly `n` bytes. -/
def fitBytes (n : Nat) (bs : List Byte) : Vector Byte n :=
  ⟨((bs ++ List.replicate n 0#8).take n).toArray, by simp⟩

namespace Blake2b

/-- `IV[0..7]` (R232). -/
def iv : List Word64 :=
  [0x6A09E667F3BCC908#64, 0xBB67AE8584CAA73B#64, 0x3C6EF372FE94F82B#64, 0xA54FF53A5F1D36F1#64,
   0x510E527FADE682D1#64, 0x9B05688C2B3E6C1F#64, 0x1F83D9ABFB41BD6B#64, 0x5BE0CD19137E2179#64]

/-- `SIGMA[0..9]` (R232). -/
def sigma : List (List Nat) :=
  [[0, 1, 2, 3, 4, 5, 6, 7, 8, 9, 10, 11, 12, 13, 14, 15],
   [14, 10, 4, 8, 9, 15, 13, 6, 1, 12, 0, 2, 11, 7, 5, 3],
   [11, 8, 12, 0, 5, 2, 15, 13, 10, 14, 3, 6, 7, 1, 9, 4],
   [7, 9, 3, 1, 13, 12, 11, 14, 2, 6, 5, 10, 4, 0, 15, 8],
   [9, 0, 5, 7, 2, 4, 10, 15, 14, 1, 11, 12, 6, 8, 3, 13],
   [2, 12, 6, 10, 0, 11, 8, 3, 4, 13, 7, 5, 15, 14, 1, 9],
   [12, 5, 1, 15, 14, 13, 4, 10, 0, 7, 6, 3, 9, 2, 8, 11],
   [13, 11, 7, 14, 12, 1, 3, 9, 5, 0, 15, 4, 8, 6, 2, 10],
   [6, 15, 14, 9, 11, 3, 0, 8, 12, 2, 13, 7, 1, 4, 10, 5],
   [10, 2, 8, 4, 7, 6, 1, 5, 15, 11, 9, 14, 3, 12, 13, 0]]

/-- `LE64` of the eight bytes from index `8 i` on (R231). -/
def le64 (bs : List Byte) (i : Nat) : Word64 :=
  BitVec.ofNat 64 (((bs.drop (8 * i)).take 8).foldr (fun b n => b.toNat + 256 * n) 0)

/-- The eight little-endian bytes of a word (R231). -/
def bytesOf (w : Word64) : List Byte :=
  (List.range 8).map (fun j => BitVec.ofNat 8 (w.toNat >>> (8 * j)))

/-- The mixing function `G` on the words at `a`, `b`, `c`, `d` (R233). -/
def mix (v : List Word64) (a b c d : Nat) (x y : Word64) : List Word64 :=
  let va := v.getD a 0 + v.getD b 0 + x
  let vd := (v.getD d 0 ^^^ va).rotateRight 32
  let vc := v.getD c 0 + vd
  let vb := (v.getD b 0 ^^^ vc).rotateRight 24
  let va' := va + vb + y
  let vd' := (vd ^^^ va').rotateRight 16
  let vc' := vc + vd'
  let vb' := (vb ^^^ vc').rotateRight 63
  (((v.set a va').set b vb').set c vc').set d vd'

/-- The places of the eight `G` calls of a round, columns then diagonals, with the two schedule indices (R234). -/
def lanes : List (Nat × Nat × Nat × Nat × Nat) :=
  [(0, 4, 8, 12, 0), (1, 5, 9, 13, 2), (2, 6, 10, 14, 4), (3, 7, 11, 15, 6),
   (0, 5, 10, 15, 8), (1, 6, 11, 12, 10), (2, 7, 8, 13, 12), (3, 4, 9, 14, 14)]

/-- Round `r` of the compression (R234); rounds 10 and 11 reuse rows 0 and 1 (R232). -/
def mixRound (m v : List Word64) (r : Nat) : List Word64 :=
  let s := sigma.getD (r % 10) []
  lanes.foldl (fun v l => mix v l.1 l.2.1 l.2.2.1 l.2.2.2.1
    (m.getD (s.getD l.2.2.2.2 0) 0) (m.getD (s.getD (l.2.2.2.2 + 1) 0) 0)) v

/-- `Compress(h, blk, t, final)` (R234). -/
def compress (h : List Word64) (blk : List Byte) (t : Nat) (final : Bool) : List Word64 :=
  let m := (List.range 16).map (le64 blk)
  let v0 := h ++ iv
  let v1 := v0.set 12 (v0.getD 12 0 ^^^ BitVec.ofNat 64 t)
  let v2 := v1.set 13 (v1.getD 13 0 ^^^ BitVec.ofNat 64 (t / 2 ^ 64))
  let v3 := if final then v2.set 14 (~~~ v2.getD 14 0) else v2
  let v := (List.range 12).foldl (mixRound m) v3
  (List.range 8).map (fun i => h.getD i 0 ^^^ v.getD i 0 ^^^ v.getD (i + 8) 0)

/-- The parameter block `P` (R235). -/
def paramBlock (keyLen n : Nat) (salt : List Byte) : List Byte :=
  [BitVec.ofNat 8 n, BitVec.ofNat 8 keyLen, 1#8, 1#8] ++ List.replicate 28 0#8 ++
    (salt ++ List.replicate 16 0#8).take 16 ++ List.replicate 16 0#8

/-- The initial chaining value (R235). -/
def initial (keyLen n : Nat) (salt : List Byte) : List Word64 :=
  let p := paramBlock keyLen n salt
  (List.range 8).map (fun i => iv.getD i 0 ^^^ le64 p i)

/-- A byte string filled with 0x00 to one 128-byte block. -/
def block128 (bs : List Byte) : List Byte := (bs ++ List.replicate 128 0#8).take 128

/-- The chaining over the 128-byte blocks of the input stream of `total` bytes (R236): `count` blocks before
the last one, `i` already consumed. -/
def chain (inp : List Byte) (total : Nat) : Nat → Nat → List Word64 → List Word64
  | 0, i, h => compress h (block128 (inp.drop (128 * i))) total true
  | count + 1, i, h =>
    chain inp total count (i + 1) (compress h (block128 (inp.drop (128 * i))) (128 * (i + 1)) false)

/-- The digest of an input stream under an initial chaining value (R236, R237). -/
def digest (h : List Word64) (inp : List Byte) : List Byte :=
  (chain inp inp.length ((inp.length + 127) / 128 - 1) 0 h).flatMap bytesOf

/-- `KH_B2B(key, salt, n, data)` (R230): the key is one whole block in front of the data (R236), the digest
the first `n` bytes (R237). -/
def hash (key salt : List Byte) (n : Nat) (data : List Byte) : Vector Byte n :=
  fitBytes n (digest (initial key.length n salt) (block128 key ++ data))

end Blake2b

end Sys2Proof.Machine
end

