-- ==== Sys2Proof/Machine/KeyedHash.lean ====
section
/-! DEFINITION. The keyed hash of a machine (40_function_units.md R112): the uninterpreted open parameter, or one
of the two instances the spec writes out. -/

namespace Sys2Proof.Machine

/-- `Σ (i+1)·bs[i]`, the weighted sum of KH_TOY; `i` counts from the given weight. -/
def toySum : Nat → List Byte → Nat
  | _, [] => 0
  | w, b :: bs => w * b.toNat + toySum (w + 1) bs

/-- The sum of the bytes. -/
def byteSum (bs : List Byte) : Nat := bs.foldl (fun n b => n + b.toNat) 0

/-- KH_TOY (95_test_vectors.md part 2). -/
def toyHash (key salt : List Byte) (n : Nat) (data : List Byte) : Vector Byte n :=
  let s := toySum 1 key + byteSum salt + toySum 1 data + key.length + n
  fitBytes n ((List.range n).map (fun j => BitVec.ofNat 8 (s + 31 * j)))

/-- The machine's `KH` (R9, R112). -/
def hashOf : HashInstance → Kh
  | .openHash id => Config.openHash id
  | .blake2b => Blake2b.hash
  | .toy => toyHash

end Sys2Proof.Machine
end

