-- ==== Sys2Proof/Machine/Units.lean ====
section
/-! DEFINITION. The function units: the pure functions over byte strings that the cipher is made of
(40_function_units.md R114 to R141). The commands compute them on the registers. -/

namespace Sys2Proof.Machine

/-- What a unit or a command answers (00_scope.md R14). -/
abbrev Result (α : Type) := Except CmdError α

/-- `⌈n/2⌉` (R12). -/
def halfUp (n : Nat) : Nat := (n + 1) / 2

/-- The number of 64-byte blocks of a string of `n` bytes, `⌈n/64⌉` (R121). -/
def blockCount (n : Nat) : Nat := (n + 63) / 64

/-- A message of `n` bytes gets one pad byte (R115). -/
def isOdd (n : Nat) : Bool := n % 2 == 1

namespace Units

/-- What `split` gives: the two halves and whether a pad byte was appended (R114). -/
structure Halves where
  left : List Byte
  right : List Byte
  padded : Bool
deriving DecidableEq, Repr

/-- `split(m)` (R114, R115). -/
def split (pad : Byte) (m : List Byte) : Result Halves :=
  if m.length < Config.msgMin then .error (.tooShort m.length)
  else
    let h := halfUp m.length
    .ok { left := m.take h
          right := m.drop h ++ (if isOdd m.length then [pad] else [])
          padded := isOdd m.length }

/-- The strap `SECRET_LEN` is in 1 to 64 (R118). -/
def secretLegal (st : Straps) : Bool :=
  decide (Config.secretMin ≤ st.secretLen.toNat ∧ st.secretLen.toNat ≤ Config.secretMax)

/-- `SECRETV`, the first `SECRET_LEN` bytes of the Secret's storage (R13). -/
def secretBytes (st : Straps) : List Byte := st.secret.toList.take st.secretLen.toNat

/-- `deriveSalt(block)` (R118). -/
def deriveSalt (kh : Kh) (st : Straps) (block : List Byte) : Result (List Byte) :=
  if block.length ≠ Config.blockSize then .error (.badBlockSize block.length)
  else if secretLegal st then .ok (kh (secretBytes st) [] Config.saltSize block).toList
  else .error (.badSecretLength st.secretLen.toNat)

/-- `pad(b, n, c)` (R122). -/
def pad (b : List Byte) (n : Nat) (c : Byte) : Result (List Byte) :=
  if b.length = 0 ∨ n < b.length then .error (.badPadTarget b.length)
  else .ok (b ++ List.replicate (n - b.length) c)

/-- Block `i` of a half (R121). -/
def block (half : List Byte) (i : Nat) : List Byte := (half.drop (64 * i)).take 64

/-- `blocks(half)` (R121). -/
def blocks (half : List Byte) : List (List Byte) :=
  (List.range (blockCount half.length)).map (block half)

/-- The output of the round function on one block: its digest cut to the block's own length (R123 to R125). -/
def blockOutput (kh : Kh) (st : Straps) (key b : List Byte) : Result (List Byte) := do
  let p ← pad b Config.blockSize st.pad
  let s ← deriveSalt kh st p
  return (kh key s Config.blockSize p).toList.take b.length

/-- The outputs of the blocks in turn, concatenated (R125). -/
def blockOutputs (kh : Kh) (st : Straps) (key : List Byte) : List (List Byte) → Result (List Byte)
  | [] => .ok []
  | b :: bs => do
    let d ← blockOutput kh st key b
    let ds ← blockOutputs kh st key bs
    return d ++ ds

/-- The length of a round key is legal (R7, R125). -/
def keyLenLegal (n : Nat) : Bool := decide (Config.keyMin ≤ n ∧ n ≤ Config.keyMax)

/-- `F(half, key)` for the key of slot `k`. A bad key is reported with its slot (R125, R137). -/
def roundFunction (kh : Kh) (st : Straps) (half : List Byte) (k : Nat) (key : List Byte) :
    Result (List Byte) :=
  if keyLenLegal key.length then
    if half.length = 0 then .error .emptyHalf
    else blockOutputs kh st key (blocks half)
  else .error (.badKeyLength k key.length)

/-- Position-wise exclusive or of two byte strings, as long as the shorter. -/
def xorBytes (a b : List Byte) : List Byte := List.zipWith (fun x y => x ^^^ y) a b

/-- `xor(a, b)` (R130): strict in the lengths. -/
def xor (a b : List Byte) : Result (List Byte) :=
  if a.length = b.length then .ok (xorBytes a b) else .error (.lengthMismatch b.length)

/-- One round: `(L, R)` becomes `(R, L ⊕ F(R, key))` (R136). -/
def round (kh : Kh) (st : Straps) (k : Nat) (key l r : List Byte) : Result (List Byte × List Byte) := do
  let f ← roundFunction kh st r k key
  let l' ← xor l f
  return (r, l')

/-- `rounds`: one round per entry of `order`, each with the key of that index (R137). -/
def rounds (kh : Kh) (st : Straps) (keys : List (List Byte)) :
    List Nat → List Byte → List Byte → Result (List Byte × List Byte)
  | [], l, r => .ok (l, r)
  | k :: ks, l, r => do
    let p ← round kh st k (keys.getD k []) l r
    rounds kh st keys ks p.1 p.2

/-- Encode order of `n` keys: `0, 1, …, n−1` (R138). -/
def forward (n : Nat) : List Nat := List.range n

/-- Decode order of `n` keys: `n−1, …, 0` (R139, R140). -/
def backward (n : Nat) : List Nat := (List.range n).reverse

/-- `encode(message, keys)`: the cipher text `R ‖ L` and the parity (R138). -/
def encode (kh : Kh) (st : Straps) (m : List Byte) (keys : List (List Byte)) :
    Result (List Byte × Bool) :=
  if keys.length = 0 then .error .emptyKeyList
  else do
    let h ← split st.pad m
    let p ← rounds kh st keys (forward keys.length) h.left h.right
    return (p.2 ++ p.1, h.padded)

/-- Does the PaddingTracker remove the last byte (R141)? -/
def strips (pad : Byte) (out : List Byte) (oob odd : Bool) : Bool :=
  decide (1 ≤ out.length) &&
    ((!oob && decide (out.getLast? = some pad)) || (oob && odd))

/-- `strip(out, OOB, ODD)` (R141). -/
def strip (pad : Byte) (out : List Byte) (oob odd : Bool) : List Byte × Bool :=
  if strips pad out oob odd then (out.take (out.length - 1), true) else (out, false)

/-- `decode(cipher, keys, OOB, ODD)` (R139). -/
def decode (kh : Kh) (st : Straps) (c : List Byte) (keys : List (List Byte)) (oob odd : Bool) :
    Result (List Byte × Bool) :=
  if keys.length = 0 then .error .emptyKeyList
  else do
    let h ← split st.pad c
    let p ← rounds kh st keys (backward keys.length) h.left h.right
    return strip st.pad (p.2 ++ p.1) oob odd

end Units

end Sys2Proof.Machine
end

