-- ==== Sys2Proof/Machine/Operands.lean ====
section
/-! DEFINITION. The operand forms (30_encoding.md R92) and the strings the registers hold (00_scope.md R13,
10_state.md R22 to R26, R45 to R48, 20_memory.md R78). -/

namespace Sys2Proof.Machine

/-- The byte at an address of the buffer storage. -/
def State.byteAt (s : State) (a : Nat) : Byte := s.mem.get a

/-- The `n` bytes of the buffer storage from `a` on. -/
def State.bytes (s : State) (a n : Nat) : List Byte := s.mem.slice a n

/-- The message `MSG[0:MSG_LEN]` (R47). -/
def State.message (s : State) : List Byte := s.bytes Map.msg s.msgLen.toNat

/-- The left half `L[0:HLEN]` (R22). -/
def State.leftHalf (s : State) : List Byte := s.bytes Map.left s.hlen.toNat

/-- The right half `R[0:HLEN]` (R22). -/
def State.rightHalf (s : State) : List Byte := s.bytes Map.right s.hlen.toNat

/-- The F output `FOUT[0:FLEN]` (R23). -/
def State.fOutput (s : State) : List Byte := s.bytes Map.fout s.flen.toNat

/-- The result `OUT[0:OUT_LEN]` (R48). -/
def State.output (s : State) : List Byte := s.bytes Map.out s.outLen.toNat

/-- The 64 bytes of `BLK` (R24). -/
def State.blockReg (s : State) : List Byte := s.bytes Map.blk 64

/-- The 16 bytes of `SALTREG` (R25). -/
def State.saltReg (s : State) : List Byte := s.bytes Map.salt 16

/-- The 64 bytes of `DIG` (R26). -/
def State.digest (s : State) : List Byte := s.bytes Map.dig 64

/-- `KLEN[k]` (R46). -/
def State.klen (s : State) (k : Nat) : Nat := (s.byteAt (Map.klen + k)).toNat

/-- `KEY(k)` = `KEYMEM[64k : 64k + KLEN[k]]` (R13, R45). -/
def State.key (s : State) (k : Nat) : List Byte := s.bytes (Map.keymem + 64 * k) (s.klen k)

/-- The KeyList `KEY(0)`, …, `KEY(NKEYS−1)` (R45). -/
def State.keyList (s : State) : List (List Byte) := (List.range s.nkeys.toNat).map s.key

/-- The byte offset of block `i`, `64·i` without wrap (R78, R92). -/
def blockOffset (i : Nat) : Nat := Config.blockSize * i

/-- The unpadded length of block `i`, `min(64, HLEN − 64i)` (R150, R158). -/
def State.blockLen (s : State) (i : Nat) : Nat := min Config.blockSize (s.hlen.toNat - blockOffset i)

/-- The half has no block `i` (R92, R150, R158). -/
def State.noBlock (s : State) (i : Nat) : Bool := decide (s.hlen.toNat ≤ blockOffset i)

/-- `CheckKey(k)` (R162): the round key of slot `k`, or the first of its two errors. -/
def State.checkKey (s : State) (k : Nat) : Result (List Byte) :=
  if s.nkeys.toNat ≤ k then .error (.indexRange k)
  else if Units.keyLenLegal (s.klen k) then .ok (s.key k)
  else .error (.badKeyLength k (s.klen k))

/-- The key slot a ROUND uses: `RND` front to back, `NKEYS − 1 − RND` back to front (R32, R36). -/
def State.roundSlot (s : State) : Nat :=
  if s.dir then s.nkeys.toNat - 1 - s.rnd.toNat else s.rnd.toNat

end Sys2Proof.Machine
end

