-- ==== Sys2Proof/Machine/Flags.lean ====
section
/-! DEFINITION. The flags of `STATUS` and what computes them (10_state.md R33 to R37). -/

namespace Sys2Proof.Machine

/-- `STATUS`: `ERR` bit 0, `PADDED` bit 1, `DIR` bit 2, `STRIPPED` bit 3, bits 15:4 zero (R33). -/
def State.statusWord (s : State) : Word :=
  BitVec.ofNat 16 (s.err.toNat + 2 * s.padded.toNat + 4 * s.dir.toNat + 8 * s.stripped.toNat)

/-- `CFGR`: `PAD` in bits 7:0, `SECRET_LEN` in bits 14:8, bit 15 zero (R44). -/
def State.cfgrWord (s : State) : Word :=
  BitVec.ofNat 16 (s.straps.pad.toNat + 256 * s.straps.secretLen.toNat)

/-- `PADDED` as SPLIT computes it: `MSG_LEN` is odd (R35, R170). -/
def State.paddedFlag (s : State) : Bool := isOdd s.msgLen.toNat

/-- `STRIPPED` as STRIP computes it: the PaddingTracker removes the last byte of `OUT[0:OUT_LEN]` (R37, R180). -/
def State.strippedFlag (s : State) (oob odd : Bool) : Bool :=
  decide (1 ≤ s.outLen.toNat) &&
    ((!oob && decide (s.byteAt (Map.out + (s.outLen.toNat - 1)) = s.straps.pad)) || (oob && odd))

end Sys2Proof.Machine
end

