-- ==== Sys2Proof/Machine/Ops.lean ====
section
/-! DEFINITION. The named operations on registers and buffers, entering a command error (60_exceptions.md R270),
acknowledging it (R273), and the frame every command but NOP, CLRERR, SRESET runs in (R90, R271). -/

namespace Sys2Proof.Machine

/-- Store a byte string in the buffers (R13). -/
def State.writeBytes (s : State) (a : Nat) (bs : List Byte) : State := { s with mem := s.mem.put a bs }

/-- `CMD <- w` (R38). -/
def State.setCmd (s : State) (w : Word) : State := { s with cmd := w }

/-- `MSG_LEN <- n` (R41). -/
def State.setMsgLen (s : State) (n : Word) : State := { s with msgLen := n }

/-- `OUT_LEN <- n` (R42). -/
def State.setOutLen (s : State) (n : Word) : State := { s with outLen := n }

/-- `HLEN <- n` (R42). -/
def State.setHlen (s : State) (n : Word) : State := { s with hlen := n }

/-- `FLEN <- n` (R42). -/
def State.setFlen (s : State) (n : Word) : State := { s with flen := n }

/-- `NKEYS <- n` (R43). -/
def State.setNkeys (s : State) (n : Word) : State := { s with nkeys := n }

/-- `RND <- n` (R32). -/
def State.setRnd (s : State) (n : Word) : State := { s with rnd := n }

/-- `BLK_LEN <- n` (R43). -/
def State.setBlkLen (s : State) (n : Word) : State := { s with blkLen := n }

/-- `STRIPPED <- b` (R37). -/
def State.setStripped (s : State) (b : Bool) : State := { s with stripped := b }

/-- The registers and flags SPLIT sets for a job of half length `h` (R170). -/
def State.startJob (s : State) (h : Nat) (padded dir : Bool) : State :=
  { s with hlen := BitVec.ofNat 16 h, flen := 0, rnd := 0, padded := padded, dir := dir, stripped := false }

/-- Command error entry: `ERR`, `ERRCODE`, `ERRINFO`, and nothing else (R270). -/
def State.fail (s : State) (e : CmdError) : State :=
  { s with err := true, errcode := e.code, errinfo := e.info }

/-- Acknowledgement, the return from a command error: the same three cleared, nothing restored (R221, R273). -/
def State.ackError (s : State) : State := { s with err := false, errcode := 0, errinfo := 0 }

/-- The registers and flags a reset zeroes, `KLEN`, `SALTREG` and `DIG` apart (R50, R51). -/
def State.clearRegs (s : State) : State :=
  { s with cmd := 0, err := false, padded := false, dir := false, stripped := false, errcode := 0,
           errinfo := 0, msgLen := 0, outLen := 0, hlen := 0, flen := 0, nkeys := 0, rnd := 0, blkLen := 0 }

/-- Soft reset (R51, R222). -/
def State.softReset (s : State) : State :=
  (((s.clearRegs).writeBytes Map.klen (List.replicate 32 0#8)).writeBytes Map.salt
    (List.replicate 16 0#8)).writeBytes Map.dig (List.replicate 64 0#8)

/-- Hard reset (R50, R290, R291): the whole configuration is sampled anew, the straps and the keyed hash (R9, R49),
and the seven buffers come up with arbitrary bytes; what the host has still to do and what it was told stay. -/
def State.hardReset (s : State) (straps : Straps) (kh : HashInstance) (image : List Host.Cell) : State :=
  { State.reset with mem := Mem.ofImage image, straps := straps, kh := kh,
                     pending := s.pending, answers := s.answers }

/-- The keyed hash of this machine (R112). -/
def State.hash (s : State) : Kh := hashOf s.kh

/-- One response given to the host (R62). -/
def State.answer (s : State) (r : BusResponse) : State := { s with answers := r :: s.answers }

/-- The host actions left once the oldest is taken. -/
def State.setPending (s : State) (as : List HostAction) : State := { s with pending := as }

/-- A command of the kind that `ERR` gates: refused without effect while `ERR` = 1 (R90 step 4, R271); else
its effect, or the entry of its error on the state before it (R90 step 6, R270). -/
def runCommand (s : State) (body : State → Result State) : Host.Outcome State Fault Refusal :=
  if s.err then .next s
  else
    match body s with
    | .ok t => .next t
    | .error e => .next (s.fail e)

end Sys2Proof.Machine
end

