-- ==== Sys2Proof/Machine/UnitCommands.lean ====
section
/-! DEFINITION. The unit commands, the inside of the round function (41_unit_commands.md). -/

namespace Sys2Proof.Machine

/-- The effect of BLKLOAD `i` (R150). -/
def loadBlock (i : Nat) (s : State) : Result State :=
  if s.noBlock i then .error (.indexRange i)
  else
    let n := s.blockLen i
    .ok ((s.writeBytes Map.blk (s.bytes (Map.right + blockOffset i) n)).setBlkLen (BitVec.ofNat 16 n))

/-- The effect of BLKPAD (R152). -/
def padBlock (s : State) : Result State :=
  let n := s.blkLen.toNat
  if n = 0 ∨ Config.blockSize < n then .error (.badPadTarget n)
  else .ok ((s.writeBytes (Map.blk + n) (List.replicate (64 - n) s.straps.pad)).setBlkLen 64)

/-- The effect of SALT (R154). -/
def saltBlock (s : State) : Result State :=
  if s.blkLen.toNat ≠ Config.blockSize then .error (.badBlockSize s.blkLen.toNat)
  else if Units.secretLegal s.straps then
    .ok (s.writeBytes Map.salt (s.hash (Units.secretBytes s.straps) [] Config.saltSize s.blockReg).toList)
  else .error (.badSecretLength s.straps.secretLen.toNat)

/-- The effect of HASH `k` (R156). -/
def hashBlock (k : Nat) (s : State) : Result State := do
  let key ← s.checkKey k
  if s.blkLen.toNat ≠ Config.blockSize then .error (.badBlockSize s.blkLen.toNat)
  else .ok (s.writeBytes Map.dig (s.hash key s.saltReg Config.blockSize s.blockReg).toList)

/-- The effect of EMIT `i` (R158). -/
def emitBlock (i : Nat) (s : State) : Result State :=
  if s.noBlock i then .error (.indexRange i)
  else
    let n := s.blockLen i
    .ok ((s.writeBytes (Map.fout + blockOffset i) (s.bytes Map.dig n)).setFlen
      (BitVec.ofNat 16 (blockOffset i + n)))

/-- The round function on block `i` of `R` under slot `k`: the five unit effects in turn (R160). -/
def functionBlock (k i : Nat) (s : State) : Result State := do
  let s ← loadBlock i s
  let s ← padBlock s
  let s ← saltBlock s
  let s ← hashBlock k s
  emitBlock i s

/-- BLKLOAD `i`. -/
def execBlkload (i : Nat) (s : State) : Host.Outcome State Fault Refusal := runCommand s (loadBlock i)

/-- BLKPAD. -/
def execBlkpad (s : State) : Host.Outcome State Fault Refusal := runCommand s padBlock

/-- SALT. -/
def execSalt (s : State) : Host.Outcome State Fault Refusal := runCommand s saltBlock

/-- HASH `k`. -/
def execHash (k : Nat) (s : State) : Host.Outcome State Fault Refusal := runCommand s (hashBlock k)

/-- EMIT `i`. -/
def execEmit (i : Nat) (s : State) : Host.Outcome State Fault Refusal := runCommand s (emitBlock i)

end Sys2Proof.Machine
end

