-- ==== Sys2Proof/Machine/RoundCommands.lean ====
section
/-! DEFINITION. The round commands (42_round_commands.md). -/

namespace Sys2Proof.Machine

/-- The effect of SPLIT `DIR` (R170). -/
def splitMessage (dir : Bool) (s : State) : Result State :=
  let n := s.msgLen.toNat
  if n < Config.msgMin then .error (.tooShort n)
  else
    let h := halfUp n
    let tail := if s.paddedFlag then [s.straps.pad] else []
    .ok (((s.writeBytes Map.left (s.bytes Map.msg h)).writeBytes Map.right
      (s.bytes (Map.msg + h) (n - h) ++ tail)).startJob h s.paddedFlag dir)

/-- The blocks from `i` on, `n` of them, one after the other (the loop of R172). -/
def functionBlocks (k : Nat) : Nat → Nat → State → Result State
  | 0, _, s => .ok s
  | n + 1, i, s => do
    let s ← functionBlock k i s
    functionBlocks k n (i + 1) s

/-- The effect of FAPPLY `k` (R172). -/
def applyFunction (k : Nat) (s : State) : Result State := do
  let _ ← s.checkKey k
  if s.hlen.toNat = 0 then .error .emptyHalf
  else functionBlocks k (blockCount s.hlen.toNat) 0 s

/-- The effect of XORL (R173). -/
def xorLeft (s : State) : Result State :=
  if s.flen.toNat ≠ s.hlen.toNat then .error (.lengthMismatch s.flen.toNat)
  else .ok (s.writeBytes Map.left (Units.xorBytes s.leftHalf s.fOutput))

/-- The effect of SWAP (R174): both halves are read before either is written. -/
def swapHalves (s : State) : State :=
  (s.writeBytes Map.left s.rightHalf).writeBytes Map.right s.leftHalf

/-- The effect of ROUND (R176). -/
def oneRound (s : State) : Result State :=
  if s.nkeys.toNat ≤ s.rnd.toNat then .error (.roundOverrun s.rnd.toNat)
  else do
    let t ← applyFunction s.roundSlot s
    let t ← xorLeft t
    return (swapHalves t).setRnd (BitVec.ofNat 16 (s.rnd.toNat + 1))

/-- The effect of JOIN (R178): the right half first. -/
def joinHalves (s : State) : State :=
  (s.writeBytes Map.out (s.rightHalf ++ s.leftHalf)).setOutLen (BitVec.ofNat 16 (2 * s.hlen.toNat))

/-- The effect of STRIP with `OOB`, `ODD` (R180): only `OUT_LEN` and `STRIPPED`. -/
def stripOutput (oob odd : Bool) (s : State) : State :=
  if s.strippedFlag oob odd then (s.setOutLen (BitVec.ofNat 16 (s.outLen.toNat - 1))).setStripped true
  else s.setStripped false

/-- SPLIT `DIR`. -/
def execSplit (dir : Bool) (s : State) : Host.Outcome State Fault Refusal := runCommand s (splitMessage dir)

/-- FAPPLY `k`. -/
def execFapply (k : Nat) (s : State) : Host.Outcome State Fault Refusal := runCommand s (applyFunction k)

/-- XORL. -/
def execXorl (s : State) : Host.Outcome State Fault Refusal := runCommand s xorLeft

/-- SWAP. -/
def execSwap (s : State) : Host.Outcome State Fault Refusal := runCommand s (fun s => .ok (swapHalves s))

/-- ROUND. -/
def execRound (s : State) : Host.Outcome State Fault Refusal := runCommand s oneRound

/-- JOIN. -/
def execJoin (s : State) : Host.Outcome State Fault Refusal := runCommand s (fun s => .ok (joinHalves s))

/-- STRIP.H: `OOB` = 0. -/
def execStripH (s : State) : Host.Outcome State Fault Refusal :=
  runCommand s (fun s => .ok (stripOutput false false s))

/-- STRIP.E: `OOB` = 1, `ODD` = 0. -/
def execStripE (s : State) : Host.Outcome State Fault Refusal :=
  runCommand s (fun s => .ok (stripOutput true false s))

/-- STRIP.O: `OOB` = 1, `ODD` = 1. -/
def execStripO (s : State) : Host.Outcome State Fault Refusal :=
  runCommand s (fun s => .ok (stripOutput true true s))

end Sys2Proof.Machine
end

