-- ==== Sys2Proof/Machine/MacroCommands.lean ====
section
/-! DEFINITION. The macro commands (43_macro_commands.md). -/

namespace Sys2Proof.Machine

/-- `n` ROUNDs in a row (R200, R202). -/
def manyRounds : Nat → State → Result State
  | 0, s => .ok s
  | n + 1, s => do
    let s ← oneRound s
    manyRounds n s

/-- SPLIT `dir`, one ROUND per key, JOIN: what ENCODE and DECODE share (R200, R202, R206). `NKEYS` is read
once, at the start (R205). -/
def runJob (dir : Bool) (s : State) : Result State :=
  if s.nkeys.toNat = 0 then .error .emptyKeyList
  else do
    let t ← splitMessage dir s
    let t ← manyRounds s.nkeys.toNat t
    return joinHalves t

/-- The effect of DECODE with `OOB`, `ODD` (R202). -/
def decodeJob (oob odd : Bool) (s : State) : Result State := do
  let t ← runJob true s
  return stripOutput oob odd t

/-- ENCODE (R200). -/
def execEncode (s : State) : Host.Outcome State Fault Refusal := runCommand s (runJob false)

/-- DECODE.H (R202). -/
def execDecodeH (s : State) : Host.Outcome State Fault Refusal := runCommand s (decodeJob false false)

/-- DECODE.E (R202). -/
def execDecodeE (s : State) : Host.Outcome State Fault Refusal := runCommand s (decodeJob true false)

/-- DECODE.O (R202). -/
def execDecodeO (s : State) : Host.Outcome State Fault Refusal := runCommand s (decodeJob true true)

end Sys2Proof.Machine
end

