-- ==== Sys2Proof/Machine/SystemCommands.lean ====
section
/-! DEFINITION. The system commands (44_system_commands.md). They run whatever `ERR` is and cannot fail. -/

namespace Sys2Proof.Machine

/-- NOP (R220). -/
def execNop (s : State) : Host.Outcome State Fault Refusal := .next s

/-- CLRERR (R221). -/
def execClrerr (s : State) : Host.Outcome State Fault Refusal := .next s.ackError

/-- SRESET (R222). -/
def execSreset (s : State) : Host.Outcome State Fault Refusal := .next s.softReset

end Sys2Proof.Machine
end

