-- ==== Sys2Proof/Machine/Dispatch.lean ====
section
/-! DEFINITION. One arm per command: its meaning on the state (30_encoding.md R90 steps 3, 4 and 6; `CMD` is
already stored). -/

namespace Sys2Proof.Machine

def exec (i : Instr) (s : State) : Host.Outcome State Fault Refusal :=
  match i with
  | .nop => Sys2Proof.Machine.execNop s
  | .clrerr => Sys2Proof.Machine.execClrerr s
  | .sreset => Sys2Proof.Machine.execSreset s
  | .split dir => Sys2Proof.Machine.execSplit dir s
  | .fapply k => Sys2Proof.Machine.execFapply k s
  | .xorl => Sys2Proof.Machine.execXorl s
  | .swap => Sys2Proof.Machine.execSwap s
  | .round => Sys2Proof.Machine.execRound s
  | .join => Sys2Proof.Machine.execJoin s
  | .stripH => Sys2Proof.Machine.execStripH s
  | .stripE => Sys2Proof.Machine.execStripE s
  | .stripO => Sys2Proof.Machine.execStripO s
  | .blkload b => Sys2Proof.Machine.execBlkload b s
  | .blkpad => Sys2Proof.Machine.execBlkpad s
  | .salt => Sys2Proof.Machine.execSalt s
  | .hash k => Sys2Proof.Machine.execHash k s
  | .emit b => Sys2Proof.Machine.execEmit b s
  | .encode => Sys2Proof.Machine.execEncode s
  | .decodeH => Sys2Proof.Machine.execDecodeH s
  | .decodeE => Sys2Proof.Machine.execDecodeE s
  | .decodeO => Sys2Proof.Machine.execDecodeO s

end Sys2Proof.Machine
end

