-- ==== Sys2Proof/Machine/Issue.lean ====
section
/-! DEFINITION. Issuing a command word (30_encoding.md R90). -/

namespace Sys2Proof.Machine

/-- A word that is no legal encoding: `IllegalCommand(w)`, or refused while `ERR` = 1 (R90 steps 4, 5, R95,
R271). -/
def illegalWord (w : Word) (s : State) : Host.Outcome State Fault Refusal :=
  runCommand s (fun _ => .error (.illegalCommand w))

/-- The write of `w` to `CMD`: store it, then execute it (R90, R38). -/
def issue (w : Word) (s : State) : Host.Outcome State Fault Refusal :=
  match decode w with
  | .ok i => exec i (s.setCmd w)
  | .error _ => illegalWord w (s.setCmd w)

end Sys2Proof.Machine
end

