-- ==== Sys2Proof/Machine/Bus.lean ====
section
/-! DEFINITION. The bus (20_memory.md): reads, writes, and what each host action does. -/

namespace Sys2Proof.Machine

/-- What a control register reads as (R38 to R44). -/
def State.ctrlRead (s : State) : CtrlReg → Word
  | .cmd => s.cmd
  | .status => s.statusWord
  | .errcode => s.errcode
  | .errinfo => s.errinfo
  | .msgLen => s.msgLen
  | .outLen => s.outLen
  | .hlen => s.hlen
  | .flen => s.flen
  | .nkeys => s.nkeys
  | .rnd => s.rnd
  | .blkLen => s.blkLen
  | .cfgr => s.cfgrWord

/-- Two bytes as one word, the lower address in bits 7:0 (R63). -/
def joinBytes (lo hi : Byte) : Word := BitVec.ofNat 16 (lo.toNat + 256 * hi.toNat)

/-- Bits 7:0 of a word (R63). -/
def lowByte (w : Word) : Byte := BitVec.ofNat 8 w.toNat

/-- Bits 15:8 of a word (R63). -/
def highByte (w : Word) : Byte := BitVec.ofNat 8 (w.toNat / 256)

/-- `MemRead(addr, 1)` (R64, R66, R67, R68). -/
def State.busRead8 (s : State) (addr : Word) : BusResponse :=
  if isBuffer addr.toNat then .okByte (s.byteAt addr.toNat) else .err

/-- `MemRead(addr, 2)` (R63 to R68). -/
def State.busRead16 (s : State) (addr : Word) : BusResponse :=
  let a := addr.toNat
  if isOdd a then .err
  else if isCtrl a then
    match ctrlReg a with
    | some r => .okWord (s.ctrlRead r)
    | none => .err
  else if isBuffer a then .okWord (joinBytes (s.byteAt a) (s.byteAt (a + 1)))
  else .err

/-- A range-checked register takes the value, or the write is refused (R70). -/
def checked (v : Word) (max : Nat) (t : State) : Option State := if v.toNat ≤ max then some t else none

/-- A 2-byte write to a control register other than `CMD`: the state after it, `none` for `ERR` (R69, R70). -/
def State.ctrlWrite (s : State) (r : CtrlReg) (v : Word) : Option State :=
  match r with
  | .msgLen => checked v Config.msgMax (s.setMsgLen v)
  | .outLen => checked v Config.msgMax (s.setOutLen v)
  | .hlen => checked v Config.halfMax (s.setHlen v)
  | .flen => checked v Config.halfMax (s.setFlen v)
  | .nkeys => checked v Config.nkeysMax (s.setNkeys v)
  | .blkLen => checked v Config.blkLenMax (s.setBlkLen v)
  | .cmd => none
  | .status => none
  | .errcode => none
  | .errinfo => none
  | .rnd => none
  | .cfgr => none

/-- `MemWrite(addr, 1, v)` (R64, R68, R71): the state after it, `none` for `ERR`. -/
def State.busWrite8 (s : State) (addr : Word) (v : Byte) : Option State :=
  if isBuffer addr.toNat then some (s.writeBytes addr.toNat [v]) else none

/-- `MemWrite(addr, 2, v)` to an address other than `CMD`'s (R63 to R66, R68 to R71): the state after it,
`none` for `ERR`. -/
def State.busWrite16 (s : State) (addr : Word) (v : Word) : Option State :=
  let a := addr.toNat
  if isOdd a then none
  else if isCtrl a then
    match ctrlReg a with
    | some r => s.ctrlWrite r v
    | none => none
  else if isBuffer a then some (s.writeBytes a [lowByte v, highByte v])
  else none

/-- Answer a write: `OK` with its effect, or `ERR` with none (R62, R73). -/
def State.answerWrite (s : State) (r : Option State) : State :=
  match r with
  | some t => t.answer .ok
  | none => s.answer .err

/-- What one host action does to the engine. A 2-byte write to address 0 issues a command and answers `OK`
whatever becomes of it (R72). -/
def perform (act : HostAction) (s : State) : Host.Outcome State Fault Refusal :=
  match act with
  | .read8 addr => .next (s.answer (s.busRead8 addr))
  | .read16 addr => .next (s.answer (s.busRead16 addr))
  | .write8 addr v => .next (s.answerWrite (s.busWrite8 addr v))
  | .write16 addr v =>
    if addr = 0 then issue v (s.answer .ok) else .next (s.answerWrite (s.busWrite16 addr v))
  | .hardReset straps kh image => .next (s.hardReset straps kh image)

/-- One step of the machine: the oldest pending host action; with none pending the engine holds its state
(R285, R292). -/
def stepHost (s : State) : Host.Outcome State Fault Refusal :=
  match s.pending with
  | [] => .next s
  | act :: rest => perform act (s.setPending rest)

/-- The host is about to issue the command word `w`, ahead of all else it has planned (R90). -/
def State.withCommand (s : State) (w : Word) : State := s.setPending (.write16 0 w :: s.pending)

end Sys2Proof.Machine
end

