-- ==== Sys2Proof/Machine/Step.lean ====
section
/-! DEFINITION. The step (00_scope.md R10) and the interface that places a command word where the next step
takes it. -/

namespace Sys2Proof.Machine

/-- One step: one host action, applied atomically (R10, R74). -/
def step (s : State) : Host.Outcome State Fault Refusal := stepHost s

/-- `s` with the instruction of `nbits` table bits `w` as the next thing the host writes to `CMD` (R77: a
command's word is the data of that write). -/
def State.withFetchWord (s : State) (nbits w : Nat) : State := s.withCommand (tableWord nbits w)

end Sys2Proof.Machine
end

