-- ==== Sys2Proof/Machine/Script.lean ====
section
/-! DEFINITION. Command sequences and host scripts: the assembler's names (30_encoding.md R97), the
pseudo-commands (R98) and the host verbs (R99). -/

namespace Sys2Proof.Machine

/-- The commands issued one after another, each a bus write of its own to `CMD` (R98). -/
def issueAll : List Instr → State → Host.Outcome State Fault Refusal
  | [], s => .next s
  | i :: is, s =>
    match issue (encode i) s with
    | .next t => issueAll is t
    | .fault f => .fault f
    | .refused r => .refused r

namespace Pseudo

/-- `FBLOCK k, i` (R98, R160). -/
def fblock (k i : Nat) : List Instr := [.blkload i, .blkpad, .salt, .hash k, .emit i]

/-- `FBLOCK k, i` for `n` blocks from `i` on (R160). -/
def fblocks (k : Nat) : Nat → Nat → List Instr
  | 0, _ => []
  | n + 1, i => fblock k i ++ fblocks k n (i + 1)

/-- `ROUNDK k` (R98, R177). -/
def roundk (k : Nat) : List Instr := [.fapply k, .xorl, .swap]

/-- `ENC` with `NKEYS` = `n` (R98, R201). -/
def enc (n : Nat) : List Instr := .split false :: (List.replicate n .round ++ [.join])

/-- The STRIP with these `OOB`, `ODD` bits (R92); `OOB` = 0 is STRIP.H. -/
def stripOf (oob odd : Bool) : Instr :=
  if oob then (if odd then .stripO else .stripE) else .stripH

/-- The DECODE with these `OOB`, `ODD` bits (R92); `OOB` = 0 is DECODE.H. -/
def decodeOf (oob odd : Bool) : Instr :=
  if oob then (if odd then .decodeO else .decodeE) else .decodeH

/-- `DEC a` with `NKEYS` = `n` (R98, R203). -/
def dec (n : Nat) (oob odd : Bool) : List Instr :=
  .split true :: (List.replicate n .round ++ [.join, stripOf oob odd])

end Pseudo

/-- A line of a host script (R99). -/
inductive ScriptLine where
  /-- `WR16 addr, v` -/
  | wr16 (addr v : Word)
  /-- `WR8 addr, v` -/
  | wr8 (addr : Word) (v : Byte)
  /-- `RD16 addr` -/
  | rd16 (addr : Word)
  /-- `RD8 addr` -/
  | rd8 (addr : Word)
  /-- `PUT buf, off, b0 b1 …`: `base` is the buffer's address -/
  | put (base off : Nat) (bytes : List Byte)
  /-- `KEYSET k, "text"` -/
  | keyset (k : Nat) (text : List Byte)
  /-- a command line such as `XORL` -/
  | command (i : Instr)
deriving DecidableEq, Repr

/-- One `WR8` per byte (R99). DESIGN CHOICE (safe), log 21: an address above 0xFFFF, which R99 leaves open, is taken
modulo 2^16. -/
def putActions : Nat → List Byte → List HostAction
  | _, [] => []
  | a, b :: bs => .write8 (BitVec.ofNat 16 a) b :: putActions (a + 1) bs

/-- The bus transactions a script line stands for (R99). DESIGN CHOICE (safe), log 21: a KEYSET text of more than 255
bytes, which R99 leaves open, stores its length modulo 256 in `KLEN[k]`, and addresses wrap as in `putActions`. -/
def ScriptLine.actions : ScriptLine → List HostAction
  | .wr16 addr v => [.write16 addr v]
  | .wr8 addr v => [.write8 addr v]
  | .rd16 addr => [.read16 addr]
  | .rd8 addr => [.read8 addr]
  | .put base off bytes => putActions (base + off) bytes
  | .keyset k text =>
    putActions (Map.keymem + 64 * k) text ++
      [.write8 (BitVec.ofNat 16 (Map.klen + k)) (BitVec.ofNat 8 text.length)]
  | .command i => [.write16 0 (encode i)]

/-- The bus transactions of a script. -/
def scriptActions (ls : List ScriptLine) : List HostAction := ls.flatMap ScriptLine.actions

namespace Asm

/-- The mnemonics written without an operand, the suffixed forms among them (R97). -/
def plain : List (String × Instr) :=
  [("NOP", .nop), ("CLRERR", .clrerr), ("SRESET", .sreset), ("XORL", .xorl), ("SWAP", .swap),
   ("ROUND", .round), ("JOIN", .join), ("BLKPAD", .blkpad), ("SALT", .salt), ("ENCODE", .encode),
   ("SPLIT.E", .split false), ("SPLIT.D", .split true), ("STRIP.H", .stripH), ("STRIP.E", .stripE),
   ("STRIP.O", .stripO), ("DECODE.H", .decodeH), ("DECODE.E", .decodeE), ("DECODE.O", .decodeO)]

/-- An operand that fits `ARG` (R92). -/
def indexed (build : Nat → Instr) (n : Nat) : Option Instr := if argFits n then some (build n) else none

/-- A command written with one operand (R92, R97). -/
def withOperand (mnemonic : String) (n : Nat) : Option Instr :=
  if mnemonic = "SPLIT" then
    if n = 0 then some (.split false) else if n = 1 then some (.split true) else none
  else if mnemonic = "STRIP" then
    if n = 0 then some .stripH else if n = 1 then some .stripE else if n = 3 then some .stripO else none
  else if mnemonic = "DECODE" then
    if n = 0 then some .decodeH else if n = 1 then some .decodeE else if n = 3 then some .decodeO else none
  else if mnemonic = "FAPPLY" then indexed .fapply n
  else if mnemonic = "HASH" then indexed .hash n
  else if mnemonic = "BLKLOAD" then indexed .blkload n
  else if mnemonic = "EMIT" then indexed .emit n
  else none

/-- The value of a digit: decimal, or hexadecimal in either case. -/
def digit (base : Nat) (c : Char) : Option Nat :=
  let n := c.toNat
  let v := if 48 ≤ n ∧ n ≤ 57 then n - 48
    else if 65 ≤ n ∧ n ≤ 70 then n - 55
    else if 97 ≤ n ∧ n ≤ 102 then n - 87
    else base
  if v < base then some v else none

/-- A row of digits as a number, the first `acc` already read. -/
def digits (base : Nat) : List Char → Nat → Option Nat
  | [], acc => some acc
  | c :: cs, acc =>
    match digit base c with
    | some d => digits base cs (base * acc + d)
    | none => none

/-- An unsigned integer in decimal, or in hexadecimal with `0x` (R97). -/
def number : List Char → Option Nat
  | [] => none
  | ['0', 'x'] => none
  | '0' :: 'x' :: cs => digits 16 cs 0
  | cs => digits 10 cs 0

/-- The line up to its comment (R97: `;` starts a comment to the end of the line). -/
def uncomment (line : List Char) : List Char := line.takeWhile (fun c => c ≠ ';')

/-- The words of a line, blanks between them; `cur` is the word being read, backwards. -/
def wordsOf : List Char → List Char → List (List Char)
  | [], cur => if cur.isEmpty then [] else [cur.reverse]
  | c :: cs, cur =>
    if c = ' ' then (if cur.isEmpty then wordsOf cs [] else cur.reverse :: wordsOf cs [])
    else wordsOf cs (c :: cur)

/-- One line of a command sequence (R97): `some none` for a line with no command, `none` where it is none. -/
def line (text : List Char) : Option (Option Instr) :=
  match wordsOf (uncomment text) [] with
  | [] => some none
  | [m] => (plain.lookup (String.ofList m)).map some
  | [m, n] =>
    match number n with
    | some k => (withOperand (String.ofList m) k).map some
    | none => none
  | _ => none

end Asm

end Sys2Proof.Machine
end

