-- ==== Sys2Proof/Safety.lean ====
section
/-! DEFINITION. What a good state is and what a job needs, in the terms the statements use. -/

namespace Sys2Proof.Machine

/-- Every length register and `RND` in its legal range (R20, R21). -/
abbrev State.inRange (s : State) : Prop :=
  s.msgLen.toNat ≤ 4096 ∧ s.outLen.toNat ≤ 4096 ∧ s.hlen.toNat ≤ 2048 ∧ s.flen.toNat ≤ 2048 ∧
  s.nkeys.toNat ≤ 32 ∧ s.rnd.toNat ≤ 32 ∧ s.blkLen.toNat ≤ 127

/-- `ERRCODE` is 0 exactly when `ERR` = 0, and then `ERRINFO` is 0 (R39, R40, R272); otherwise it is one of the
codes 2 to 12 (R261, R262). -/
abbrev State.errorRecord (s : State) : Prop :=
  (s.err = false → s.errcode = 0 ∧ s.errinfo = 0) ∧
  (s.err = true → 2 ≤ s.errcode.toNat ∧ s.errcode.toNat ≤ 12)

/-- The buffer storage is in canonical form and lists mapped buffer addresses only (R66). -/
abbrev State.storageHolds (s : State) : Prop := s.mem.wf = true ∧ s.mem.mapped = true

/-- What every reachable state satisfies (R21, R272). -/
abbrev State.Inv (s : State) : Prop := s.inRange ∧ s.errorRecord ∧ s.storageHolds

/-- The engine accepts commands (R90 step 4). -/
abbrev State.ready (s : State) : Prop := s.err = false

/-- Slot `k` holds a round key a command may use (R162). -/
abbrev State.keyUsable (s : State) (k : Nat) : Prop :=
  k < s.nkeys.toNat ∧ 1 ≤ s.klen k ∧ s.klen k ≤ 64

/-- The strapped Secret is legal (R295). -/
abbrev State.secretUsable (s : State) : Prop :=
  1 ≤ s.straps.secretLen.toNat ∧ s.straps.secretLen.toNat ≤ 64

/-- All that a whole job needs (R296). -/
abbrev State.jobReady (s : State) : Prop :=
  s.ready ∧ 1 ≤ s.nkeys.toNat ∧ (∀ k < s.nkeys.toNat, 1 ≤ s.klen k ∧ s.klen k ≤ 64) ∧
  2 ≤ s.msgLen.toNat ∧ s.secretUsable

/-- Every address outside the listed ranges (base, size) reads in `m'` as it did in `m`. -/
def SameOutside (m m' : Mem) (ranges : List (Nat × Nat)) : Prop :=
  ∀ a : Nat, (∀ r ∈ ranges, ¬ (r.1 ≤ a ∧ a < r.1 + r.2)) → m'.get a = m.get a

/-- The three commands that run whatever `ERR` is (R90 step 3). -/
def isSystem : Instr → Bool
  | .nop => true
  | .clrerr => true
  | .sreset => true
  | .split _ => false
  | .fapply _ => false
  | .xorl => false
  | .swap => false
  | .round => false
  | .join => false
  | .stripH => false
  | .stripE => false
  | .stripO => false
  | .blkload _ => false
  | .blkpad => false
  | .salt => false
  | .hash _ => false
  | .emit _ => false
  | .encode => false
  | .decodeH => false
  | .decodeE => false
  | .decodeO => false

/-- The legal words of R93, column "legal words", as numbers. -/
def legalWord (w : Word) : Bool :=
  let n := w.toNat
  decide (n = 0x0000 ∨ n = 0x0100 ∨ n = 0x0200 ∨ n = 0x1000 ∨ n = 0x1001 ∨ (0x1100 ≤ n ∧ n ≤ 0x11FF) ∨
    n = 0x1200 ∨ n = 0x1300 ∨ n = 0x1400 ∨ n = 0x1500 ∨ n = 0x1600 ∨ n = 0x1601 ∨ n = 0x1603 ∨
    (0x2000 ≤ n ∧ n ≤ 0x20FF) ∨ n = 0x2100 ∨ n = 0x2200 ∨ (0x2300 ≤ n ∧ n ≤ 0x23FF) ∨
    (0x2400 ≤ n ∧ n ≤ 0x24FF) ∨ n = 0x3000 ∨ n = 0x3100 ∨ n = 0x3101 ∨ n = 0x3103)

/-- The reserved addresses of R66. -/
def reservedAddr (a : Nat) : Bool :=
  decide ((0x0018 ≤ a ∧ a ≤ 0x003F) ∨ (0x0090 ≤ a ∧ a ≤ 0x00BF) ∨ (0x0120 ≤ a ∧ a ≤ 0x07FF) ∨ 0x4800 ≤ a)

/-- The three STRIP commands with their `OOB`, `ODD` bits (R92, R180). -/
def stripForms : List (Instr × Bool × Bool) :=
  [(.stripH, false, false), (.stripE, true, false), (.stripO, true, true)]

/-- The three DECODE commands with their `OOB`, `ODD` bits (R92, R202). -/
def decodeForms : List (Instr × Bool × Bool) :=
  [(.decodeH, false, false), (.decodeE, true, false), (.decodeO, true, true)]

end Sys2Proof.Machine
end

