-- ==== Sys2Proof/Certificates/Slice0/Obligations.lean ====
section
/-! DEFINITION. The statements for the provers: what the commands, the bus and the function units do, the
invariant of the machine, and how command sequences compare with the commands they spell out. -/

open Sys2Proof Sys2Proof.Machine

/-! ### Encoding -/

/-- Every well-formed command's word decodes to that command (R93, R97). -/
def Obligations.DecodeOfEncode : Prop :=
  ∀ i : Instr, i.wellFormed = true → decode (encode i) = .ok i

/-- A word that decodes is the word of the command it decodes to (R93, R97). -/
def Obligations.DecodedWordEncodesBack : Prop :=
  ∀ (w : Word) (i : Instr), decode w = .ok i → i.wellFormed = true ∧ encode i = w

/-- The decoder accepts exactly the legal words; any other word is recorded as `IllegalCommand(w)` while
`ERR` = 0 and refused while `ERR` = 1 (R95). -/
def Obligations.IllegalWordsRecordedOrRefused : Prop :=
  ∀ w : Word,
    (legalWord w = true → ∃ i, decode w = .ok i) ∧
    (legalWord w = false →
      decode w = .error (.illegalCommand w) ∧
      ∀ s : State,
        (s.err = false → issue w s = .next { s with cmd := w, err := true, errcode := 12, errinfo := w }) ∧
        (s.err = true → issue w s = .next { s with cmd := w }))

/-- A few words written out from the opcode map (R93). -/
def Obligations.SampleWordsDecode : Prop :=
  decode 0x0200#16 = .ok .sreset ∧ decode 0x1001#16 = .ok (.split true) ∧
  decode 0x11FF#16 = .ok (.fapply 255) ∧ decode 0x1603#16 = .ok .stripO ∧
  decode 0x2407#16 = .ok (.emit 7) ∧ decode 0x3101#16 = .ok .decodeE ∧
  decode 0x3102#16 = .error (.illegalCommand 0x3102#16)

/-! ### The step -/

/-- When the next host action writes a word to `CMD` that decodes, the step is the meaning of that command on the
state with the action taken off, `OK` answered and the word stored (R72, R90). -/
def Obligations.StepRunsDecodedCommand : Prop :=
  ∀ (s : State) (w : Word) (i : Instr) (rest : List HostAction),
    s.pending = .write16 0 w :: rest → decode w = .ok i →
    step s = exec i { s with pending := rest, answers := .ok :: s.answers, cmd := w }

/-- With no host action to come a step changes nothing. That is the model's reading (log 1) of R285 and R292. -/
def Obligations.IdleStepHoldsState : Prop :=
  ∀ s : State, s.pending = [] → step s = .next s

/-- Every step answers a next state: nothing stalls, nothing stops the machine (R300). -/
def Obligations.EveryStepAnswers : Prop :=
  ∀ s : State, ∃ t, step s = .next t

/-- The range invariant, the error record and the canonical storage are kept by every step (R21, R39, R272). -/
def Obligations.StepKeepsInvariant : Prop :=
  ∀ s t : State, s.Inv → step s = .next t → t.Inv

/-- The state after reset satisfies the invariant (R21, R50). -/
def Obligations.ResetSatisfiesInvariant : Prop := State.reset.Inv

/-- The registers, flags and cleared buffers after reset (R50). -/
def Obligations.ResetClearsRegisters : Prop :=
  let s := State.reset
  s.cmd = 0 ∧ s.statusWord = 0 ∧ s.errcode = 0 ∧ s.errinfo = 0 ∧ s.msgLen = 0 ∧ s.outLen = 0 ∧ s.hlen = 0 ∧
  s.flen = 0 ∧ s.nkeys = 0 ∧ s.rnd = 0 ∧ s.blkLen = 0 ∧ (∀ k < 32, s.klen k = 0) ∧
  s.saltReg = List.replicate 16 0 ∧ s.digest = List.replicate 64 0

/-- A hard reset from any state: the registers, the flags, `KLEN`, `SALTREG` and `DIG` are zero, the straps and the
keyed hash are the ones sampled (R9, R49), and the seven other buffers come up with the bytes of the image, all of its
cells at once where no address repeats (R50, R290, R291). That the host's plans and its answers stay, and that the last
cell wins where an address repeats, is the model's choice (log 7). -/
def Obligations.HardResetFromAnyState : Prop :=
  ∀ (s : State) (straps : Straps) (kh : HashInstance) (image : List Host.Cell), ∃ m : Mem,
    perform (.hardReset straps kh image) s =
      .next { cmd := 0, err := false, padded := false, dir := false, stripped := false, errcode := 0,
              errinfo := 0, msgLen := 0, outLen := 0, hlen := 0, flen := 0, nkeys := 0, rnd := 0,
              blkLen := 0, mem := m, straps := straps, kh := kh, pending := s.pending,
              answers := s.answers } ∧
    (∀ a, isZeroed a = true → m.get a = 0) ∧
    ((image.map Prod.fst).Nodup → ∀ c ∈ image, isResidual c.1 = true → m.get c.1 = c.2) ∧
    (∀ (a : Nat) (b : Byte), isResidual a = true → image.getLast? = some (a, b) → m.get a = b)

/-- A failing command's whole effect is the error record, the stored word and the answer `OK` (R270). -/
def Obligations.FailingCommandOnlyRecordsItsError : Prop :=
  ∀ (s t : State) (w : Word) (rest : List HostAction),
    s.pending = .write16 0 w :: rest → s.err = false → step s = .next t → t.err = true →
    ∃ e : CmdError, e ≠ .notAString ∧
      t = { s with pending := rest, answers := .ok :: s.answers, cmd := w,
                   err := true, errcode := e.code, errinfo := e.info }

/-- The codes and information words of the error table (R261). -/
def Obligations.ErrorCodesAndInfo : Prop :=
  (∀ n, (CmdError.tooShort n).code = 2 ∧ (CmdError.tooShort n).info = BitVec.ofNat 16 n) ∧
  (∀ k n, (CmdError.badKeyLength k n).code = 3 ∧
    (CmdError.badKeyLength k n).info = BitVec.ofNat 16 (256 * k + n)) ∧
  (CmdError.emptyHalf.code = 4 ∧ CmdError.emptyHalf.info = 0) ∧
  (∀ n, (CmdError.badBlockSize n).code = 5 ∧ (CmdError.badBlockSize n).info = BitVec.ofNat 16 n) ∧
  (∀ n, (CmdError.badSecretLength n).code = 6 ∧ (CmdError.badSecretLength n).info = BitVec.ofNat 16 n) ∧
  (∀ n, (CmdError.badPadTarget n).code = 7 ∧ (CmdError.badPadTarget n).info = BitVec.ofNat 16 n) ∧
  (∀ n, (CmdError.lengthMismatch n).code = 8 ∧ (CmdError.lengthMismatch n).info = BitVec.ofNat 16 n) ∧
  (CmdError.emptyKeyList.code = 9 ∧ CmdError.emptyKeyList.info = 0) ∧
  (∀ i, (CmdError.indexRange i).code = 10 ∧ (CmdError.indexRange i).info = BitVec.ofNat 16 i) ∧
  (∀ r, (CmdError.roundOverrun r).code = 11 ∧ (CmdError.roundOverrun r).info = BitVec.ofNat 16 r) ∧
  (∀ w, (CmdError.illegalCommand w).code = 12 ∧ (CmdError.illegalCommand w).info = w)

/-- While `ERR` = 1 every word but 0x0000, 0x0100, 0x0200 is stored in `CMD` and does nothing else; the write is
answered `OK` (R271). -/
def Obligations.CommandsRefusedWhileErr : Prop :=
  ∀ (s : State) (w : Word) (rest : List HostAction),
    s.pending = .write16 0 w :: rest → s.err = true → w ≠ 0x0000 → w ≠ 0x0100 → w ≠ 0x0200 →
    step s = .next { s with pending := rest, answers := .ok :: s.answers, cmd := w }

/-- `ERR` is cleared by CLRERR, SRESET and hard reset alone, and until then the first error stays on record
(R272). -/
def Obligations.ErrStaysUntilAcknowledged : Prop :=
  ∀ s t : State, s.err = true → step s = .next t →
    (t.err = true ∧ t.errcode = s.errcode ∧ t.errinfo = s.errinfo) ∨
    (t.err = false ∧ ((∃ rest, s.pending = .write16 0 0x0100 :: rest) ∨
      (∃ rest, s.pending = .write16 0 0x0200 :: rest) ∨
      (∃ straps kh image rest, s.pending = .hardReset straps kh image :: rest)))

/-- No command and no bus write changes the configuration, the straps and the keyed hash: a step that changes it is
a hard reset, which samples it (R9, R49). -/
def Obligations.ConfigurationIsFixed : Prop :=
  ∀ s t : State, step s = .next t →
    (t.straps = s.straps ∧ t.kh = s.kh) ∨
    ∃ image rest, s.pending = .hardReset t.straps t.kh image :: rest

/-- No command writes `MSG` or `KEYMEM`, and none but SRESET writes `MSG_LEN`, `NKEYS` or `KLEN` (R45, R47, R41,
R43, R222). -/
def Obligations.CommandsNeverWriteKeysOrMessage : Prop :=
  ∀ (i : Instr) (s t : State), s.Inv → exec i s = .next t →
    (∀ a, inRegion Map.msg 4096 a = true ∨ inRegion Map.keymem 2048 a = true → t.mem.get a = s.mem.get a) ∧
    (i ≠ .sreset → t.msgLen = s.msgLen ∧ t.nkeys = s.nkeys ∧
      ∀ a, inRegion Map.klen 32 a = true → t.mem.get a = s.mem.get a)

/-! ### The bus -/

/-- A read changes nothing but the answers. Each control register reads as its current contents (named in R38 to
R44), a mapped buffer address as the stored byte, an even one as the two stored bytes, the lower address in bits 7:0
(R67). -/
def Obligations.ReadsHaveNoSideEffect : Prop :=
  ∀ (s : State) (a : Word),
    perform (.read8 a) s = .next { s with answers := s.busRead8 a :: s.answers } ∧
    perform (.read16 a) s = .next { s with answers := s.busRead16 a :: s.answers } ∧
    (s.busRead16 0x00 = .okWord s.cmd ∧ s.busRead16 0x02 = .okWord s.statusWord ∧
      s.busRead16 0x04 = .okWord s.errcode ∧ s.busRead16 0x06 = .okWord s.errinfo ∧
      s.busRead16 0x08 = .okWord s.msgLen ∧ s.busRead16 0x0A = .okWord s.outLen ∧
      s.busRead16 0x0C = .okWord s.hlen ∧ s.busRead16 0x0E = .okWord s.flen ∧
      s.busRead16 0x10 = .okWord s.nkeys ∧ s.busRead16 0x12 = .okWord s.rnd ∧
      s.busRead16 0x14 = .okWord s.blkLen ∧ s.busRead16 0x16 = .okWord s.cfgrWord) ∧
    (isBuffer a.toNat = true → s.busRead8 a = .okByte (s.mem.get a.toNat)) ∧
    (isBuffer a.toNat = true → a.toNat % 2 = 0 → ∃ v : Word, s.busRead16 a = .okWord v ∧
      v.extractLsb' 0 8 = s.mem.get a.toNat ∧ v.extractLsb' 8 8 = s.mem.get (a.toNat + 1))

/-- Which reads are answered `ERR`: 1-byte reads of the control registers, odd 2-byte reads, reserved addresses
(R64, R65, R68). -/
def Obligations.ReadErrorsExactly : Prop :=
  ∀ (s : State) (a : Word),
    (s.busRead8 a = .err ↔ a.toNat < 0x40 ∨ reservedAddr a.toNat = true) ∧
    (s.busRead16 a = .err ↔ a.toNat % 2 = 1 ∨ reservedAddr a.toNat = true)

/-- Which writes are answered `ERR` and do nothing, and that every other write is answered `OK` (R62, R64, R65, R68,
R69, R70). The write to `CMD` (R72) is never answered `ERR` for its value. -/
def Obligations.WriteErrorsExactly : Prop :=
  ∀ (s : State) (a v : Word) (b : Byte),
    (if a.toNat < 0x40 ∨ reservedAddr a.toNat = true then
        perform (.write8 a b) s = .next { s with answers := .err :: s.answers }
      else ∃ t, perform (.write8 a b) s = .next t ∧ t.answers = .ok :: s.answers) ∧
    (if a.toNat % 2 = 1 ∨ reservedAddr a.toNat = true ∨
        a = 0x02 ∨ a = 0x04 ∨ a = 0x06 ∨ a = 0x12 ∨ a = 0x16 ∨
        ((a = 0x08 ∨ a = 0x0A) ∧ 4096 < v.toNat) ∨ ((a = 0x0C ∨ a = 0x0E) ∧ 2048 < v.toNat) ∨
        (a = 0x10 ∧ 32 < v.toNat) ∨ (a = 0x14 ∧ 127 < v.toNat) then
        perform (.write16 a v) s = .next { s with answers := .err :: s.answers }
      else ∃ t, perform (.write16 a v) s = .next t ∧ t.answers = .ok :: s.answers)

/-- A bus transaction answered `ERR` changes no register, flag or buffer byte (R73). -/
def Obligations.BusErrorChangesNothing : Prop :=
  ∀ (s t : State) (act : HostAction) (rest : List HostAction),
    s.pending = act :: rest → step s = .next t → t.answers = .err :: s.answers →
    t = { s with pending := rest, answers := .err :: s.answers }

/-- A write to a length register stores a value in range and changes nothing else, and a value out of range is
answered `ERR` (R70). -/
def Obligations.LengthRegistersAreRangeChecked : Prop :=
  ∀ (s : State) (v : Word),
    perform (.write16 0x08 v) s = .next (if v.toNat ≤ 4096 then
      { s with msgLen := v, answers := .ok :: s.answers } else { s with answers := .err :: s.answers }) ∧
    perform (.write16 0x0A v) s = .next (if v.toNat ≤ 4096 then
      { s with outLen := v, answers := .ok :: s.answers } else { s with answers := .err :: s.answers }) ∧
    perform (.write16 0x0C v) s = .next (if v.toNat ≤ 2048 then
      { s with hlen := v, answers := .ok :: s.answers } else { s with answers := .err :: s.answers }) ∧
    perform (.write16 0x0E v) s = .next (if v.toNat ≤ 2048 then
      { s with flen := v, answers := .ok :: s.answers } else { s with answers := .err :: s.answers }) ∧
    perform (.write16 0x10 v) s = .next (if v.toNat ≤ 32 then
      { s with nkeys := v, answers := .ok :: s.answers } else { s with answers := .err :: s.answers }) ∧
    perform (.write16 0x14 v) s = .next (if v.toNat ≤ 127 then
      { s with blkLen := v, answers := .ok :: s.answers } else { s with answers := .err :: s.answers })

/-- A write to a mapped buffer address stores the byte or the two bytes and nothing else, whatever `ERR` is
(R71). -/
def Obligations.BufferWritesStoreTheirBytes : Prop :=
  ∀ (s : State) (a : Word) (b : Byte) (v : Word), isBuffer a.toNat = true →
    (∃ m, perform (.write8 a b) s = .next { s with mem := m, answers := .ok :: s.answers } ∧
      m.get a.toNat = b ∧ SameOutside s.mem m [(a.toNat, 1)]) ∧
    (a.toNat % 2 = 0 →
      ∃ m, perform (.write16 a v) s = .next { s with mem := m, answers := .ok :: s.answers } ∧
        m.get a.toNat = BitVec.ofNat 8 v.toNat ∧ m.get (a.toNat + 1) = BitVec.ofNat 8 (v.toNat / 256) ∧
        SameOutside s.mem m [(a.toNat, 2)])

/-- Little-endian in both directions, mixed widths (R63). -/
def Obligations.BufferAccessIsLittleEndian : Prop :=
  ∀ (s : State) (a v : Word) (b0 b1 : Byte), isBuffer a.toNat = true → a.toNat % 2 = 0 →
    (∃ t, perform (.write16 a v) s = .next t ∧ t.busRead8 a = .okByte (v.extractLsb' 0 8) ∧
      t.busRead8 (a + 1) = .okByte (v.extractLsb' 8 8) ∧ t.busRead16 a = .okWord v) ∧
    (∃ t u, perform (.write8 a b0) s = .next t ∧ perform (.write8 (a + 1) b1) t = .next u ∧
      u.busRead16 a = .okWord (BitVec.ofNat 16 (b1.toNat * 256 + b0.toNat)))

/-- Every write of a word to `CMD` is answered `OK`, stores the word (SRESET then clears it) and takes one host
action (R72, R38). -/
def Obligations.CommandWritesAreAnsweredOk : Prop :=
  ∀ (s : State) (w : Word) (rest : List HostAction), s.pending = .write16 0 w :: rest →
    ∃ t, step s = .next t ∧ t.answers = .ok :: s.answers ∧ t.pending = rest ∧
      t.cmd = if w = 0x0200 then 0 else w

/-- What `STATUS` and `CFGR` read as, bit by bit (R33, R44). -/
def Obligations.StatusAndCfgrViews : Prop :=
  ∀ s : State,
    s.busRead16 0x0002 = .okWord s.statusWord ∧ s.busRead16 0x0016 = .okWord s.cfgrWord ∧
    (∀ n, s.statusWord.getLsbD n =
      if n = 0 then s.err else if n = 1 then s.padded else if n = 2 then s.dir
      else if n = 3 then s.stripped else false) ∧
    s.cfgrWord.extractLsb' 0 8 = s.straps.pad ∧ s.cfgrWord.extractLsb' 8 7 = s.straps.secretLen ∧
    s.cfgrWord.getLsbD 15 = false

/-- No read answers differently on a machine with other Secret bytes: they are readable nowhere (R44). -/
def Obligations.SecretBytesAreUnreadable : Prop :=
  ∀ (s : State) (other : Vector Byte 64) (a : Word),
    State.busRead8 { s with straps := { s.straps with secret := other } } a = s.busRead8 a ∧
    State.busRead16 { s with straps := { s.straps with secret := other } } a = s.busRead16 a

/-! ### The function units -/

/-- The split invariant (R116). -/
def Obligations.SplitInvariant : Prop :=
  ∀ (pad : Byte) (m : List Byte), 2 ≤ m.length → ∃ l r p, Units.split pad m = .ok ⟨l, r, p⟩ ∧
    l.length = (m.length + 1) / 2 ∧ r.length = (m.length + 1) / 2 ∧ 1 ≤ l.length ∧
    (m.length % 2 = 0 → l ++ r = m ∧ p = false) ∧
    (m.length % 2 = 1 → l ++ r.take (r.length - 1) = m ∧ r.getLast? = some pad ∧ p = true) ∧
    l ++ r = m ++ List.replicate p.toNat pad ∧ (l ++ r).length = 2 * ((m.length + 1) / 2)

/-- The padder (R122): its result, and when it fails. -/
def Obligations.PadExtendsOrFails : Prop :=
  ∀ (b : List Byte) (n : Nat) (c : Byte),
    (1 ≤ b.length → b.length ≤ n → ∃ p, Units.pad b n c = .ok p ∧ p.length = n ∧ p.take b.length = b ∧
      ∀ j, b.length ≤ j → j < n → p[j]? = some c) ∧
    (b.length = 0 ∨ n < b.length → Units.pad b n c = .error (.badPadTarget b.length))

/-- Salt derivation (R118): sixteen bytes of the keyed hash of the block under the Secret, or its two errors in
their order. -/
def Obligations.SaltDerivation : Prop :=
  ∀ (kh : Kh) (st : Straps) (block : List Byte),
    (block.length ≠ 64 → Units.deriveSalt kh st block = .error (.badBlockSize block.length)) ∧
    (block.length = 64 → (st.secretLen.toNat < 1 ∨ 64 < st.secretLen.toNat) →
      Units.deriveSalt kh st block = .error (.badSecretLength st.secretLen.toNat)) ∧
    (block.length = 64 → 1 ≤ st.secretLen.toNat → st.secretLen.toNat ≤ 64 → ∃ salt,
      Units.deriveSalt kh st block = .ok salt ∧ salt.length = 16 ∧
      salt = (kh (st.secret.toList.take st.secretLen.toNat) [] 16 block).toList)

/-- The round function's output is as long as the half, and its bytes `64i` to `64i + |b_i| − 1` are the output of
block `i` alone (R126 (a), (c)). -/
def Obligations.RoundFunctionIsBlockwise : Prop :=
  ∀ (kh : Kh) (st : Straps) (half key : List Byte) (k : Nat),
    1 ≤ key.length → key.length ≤ 64 → 1 ≤ half.length → 1 ≤ st.secretLen.toNat → st.secretLen.toNat ≤ 64 →
    ∃ out, Units.roundFunction kh st half k key = .ok out ∧ out.length = half.length ∧
      ∀ i < blockCount half.length,
        Units.blockOutput kh st key (Units.block half i) = .ok ((out.drop (64 * i)).take 64)

/-- The combiner (R131): involution, commutative, associative, length, strict. -/
def Obligations.XorLaws : Prop :=
  ∀ a b c : List Byte,
    (a.length = b.length → b.length = c.length → ∃ ab bc, Units.xor a b = .ok ab ∧ Units.xor b c = .ok bc ∧
      Units.xor ab b = .ok a ∧ Units.xor b a = .ok ab ∧ Units.xor ab c = Units.xor a bc ∧
      ab.length = a.length) ∧
    (a.length ≠ b.length → Units.xor a b = .error (.lengthMismatch b.length))

/-- The round trip, for every hash, every Secret of legal length, every list of legal keys and every message of two
bytes or more: exact with the parity out of band; with the heuristic, all but the last byte of an even message that
ends in the pad byte (R142). -/
def Obligations.RoundTripOfTheCipher : Prop :=
  ∀ (kh : Kh) (st : Straps) (m : List Byte) (keys : List (List Byte)),
    1 ≤ st.secretLen.toNat → st.secretLen.toNat ≤ 64 → 1 ≤ keys.length →
    (∀ key ∈ keys, 1 ≤ key.length ∧ key.length ≤ 64) → 2 ≤ m.length →
    ∃ c p, Units.encode kh st m keys = .ok (c, p) ∧ p = decide (m.length % 2 = 1) ∧
      c.length = 2 * ((m.length + 1) / 2) ∧
      Units.decode kh st c keys true p = .ok (m, p) ∧
      Units.decode kh st c keys false false =
        (if m.length % 2 = 1 then .ok (m, true)
         else if m.getLast? = some st.pad then .ok (m.take (m.length - 1), true)
         else .ok (m, false))

/-! ### System commands -/

/-- NOP (R220). -/
def Obligations.NopStoresOnlyItsWord : Prop :=
  encode .nop = 0x0000 ∧ ∀ s : State, exec .nop s = .next s ∧ issue 0x0000 s = .next { s with cmd := 0 }

/-- CLRERR (R221): the error record is cleared and nothing else; with no error on record nothing changes. -/
def Obligations.ClrerrAcknowledges : Prop :=
  encode .clrerr = 0x0100 ∧
  ∀ s : State, exec .clrerr s = .next { s with err := false, errcode := 0, errinfo := 0 } ∧
    (s.errorRecord → s.err = false → exec .clrerr s = .next s)

/-- SRESET (R222). -/
def Obligations.SresetClearsAllButTheBuffers : Prop :=
  encode .sreset = 0x0200 ∧
  ∀ s : State, ∃ m : Mem,
    exec .sreset s =
      .next { s with
        cmd := 0, errcode := 0, errinfo := 0, msgLen := 0, outLen := 0, hlen := 0, flen := 0, nkeys := 0,
        rnd := 0, blkLen := 0, err := false, padded := false, dir := false, stripped := false, mem := m } ∧
    (∀ k < 32, m.get (Map.klen + k) = 0) ∧ m.slice Map.salt 16 = List.replicate 16 0 ∧
    m.slice Map.dig 64 = List.replicate 64 0 ∧
    SameOutside s.mem m [(Map.klen, 32), (Map.salt, 16), (Map.dig, 64)]

/-! ### Unit commands -/

/-- BLKLOAD `i` (R150). -/
def Obligations.BlkloadCopiesBlock : Prop :=
  (∀ i < 256, encode (.blkload i) = BitVec.ofNat 16 (0x2000 + i)) ∧
  ∀ (s : State) (i : Nat), s.err = false →
    (s.hlen.toNat ≤ 64 * i → exec (.blkload i) s = .next (s.fail (.indexRange i))) ∧
    (64 * i < s.hlen.toNat →
      let n := min 64 (s.hlen.toNat - 64 * i)
      ∃ m, exec (.blkload i) s = .next { s with mem := m, blkLen := BitVec.ofNat 16 n } ∧
        m.slice Map.blk n = s.mem.slice (Map.right + 64 * i) n ∧ SameOutside s.mem m [(Map.blk, n)])

/-- BLKPAD (R152). -/
def Obligations.BlkpadFillsBlock : Prop :=
  encode .blkpad = 0x2100 ∧
  ∀ s : State, s.err = false →
    let n := s.blkLen.toNat
    (n = 0 ∨ 64 < n → exec .blkpad s = .next (s.fail (.badPadTarget n))) ∧
    (1 ≤ n → n ≤ 64 →
      ∃ m, exec .blkpad s = .next { s with mem := m, blkLen := 64 } ∧
        (∀ j, n ≤ j → j < 64 → m.get (Map.blk + j) = s.straps.pad) ∧
        SameOutside s.mem m [(Map.blk + n, 64 - n)] ∧
        Units.pad (s.mem.slice Map.blk n) 64 s.straps.pad = .ok (m.slice Map.blk 64))

/-- SALT (R154). -/
def Obligations.SaltWritesDerivedSalt : Prop :=
  encode .salt = 0x2200 ∧
  ∀ s : State, s.err = false →
    (s.blkLen.toNat ≠ 64 → exec .salt s = .next (s.fail (.badBlockSize s.blkLen.toNat))) ∧
    (s.blkLen.toNat = 64 → ¬ s.secretUsable →
      exec .salt s = .next (s.fail (.badSecretLength s.straps.secretLen.toNat))) ∧
    (s.blkLen.toNat = 64 → s.secretUsable →
      ∃ m, exec .salt s = .next { s with mem := m } ∧
        m.slice Map.salt 16 =
          (s.hash (s.straps.secret.toList.take s.straps.secretLen.toNat) [] 16
            (s.mem.slice Map.blk 64)).toList ∧
        SameOutside s.mem m [(Map.salt, 16)])

/-- HASH `k` (R156, R162). -/
def Obligations.HashWritesDigest : Prop :=
  (∀ k < 256, encode (.hash k) = BitVec.ofNat 16 (0x2300 + k)) ∧
  ∀ (s : State) (k : Nat), s.err = false →
    (s.nkeys.toNat ≤ k → exec (.hash k) s = .next (s.fail (.indexRange k))) ∧
    (k < s.nkeys.toNat → (s.klen k < 1 ∨ 64 < s.klen k) →
      exec (.hash k) s = .next (s.fail (.badKeyLength k (s.klen k)))) ∧
    (s.keyUsable k → s.blkLen.toNat ≠ 64 →
      exec (.hash k) s = .next (s.fail (.badBlockSize s.blkLen.toNat))) ∧
    (s.keyUsable k → s.blkLen.toNat = 64 →
      ∃ m, exec (.hash k) s = .next { s with mem := m } ∧
        m.slice Map.dig 64 =
          (s.hash (s.mem.slice (Map.keymem + 64 * k) (s.klen k)) (s.mem.slice Map.salt 16) 64
            (s.mem.slice Map.blk 64)).toList ∧
        SameOutside s.mem m [(Map.dig, 64)])

/-- EMIT `i` (R158). -/
def Obligations.EmitPlacesCutDigest : Prop :=
  (∀ i < 256, encode (.emit i) = BitVec.ofNat 16 (0x2400 + i)) ∧
  ∀ (s : State) (i : Nat), s.err = false →
    (s.hlen.toNat ≤ 64 * i → exec (.emit i) s = .next (s.fail (.indexRange i))) ∧
    (64 * i < s.hlen.toNat →
      let n := min 64 (s.hlen.toNat - 64 * i)
      ∃ m, exec (.emit i) s = .next { s with mem := m, flen := BitVec.ofNat 16 (64 * i + n) } ∧
        m.slice (Map.fout + 64 * i) n = s.mem.slice Map.dig n ∧
        SameOutside s.mem m [(Map.fout + 64 * i, n)])

/-! ### Round commands -/

/-- SPLIT `DIR` (R170). -/
def Obligations.SplitLoadsHalves : Prop :=
  encode (.split false) = 0x1000 ∧ encode (.split true) = 0x1001 ∧
  ∀ (s : State) (dir : Bool), s.Inv → s.err = false →
    let n := s.msgLen.toNat
    let h := (n + 1) / 2
    (n < 2 → exec (.split dir) s = .next (s.fail (.tooShort n))) ∧
    (2 ≤ n →
      ∃ m,
        exec (.split dir) s =
          .next { s with
            mem := m, hlen := BitVec.ofNat 16 h, flen := 0, rnd := 0, padded := decide (n % 2 = 1),
            dir := dir, stripped := false } ∧
        m.slice Map.left h = s.mem.slice Map.msg h ∧
        (n % 2 = 0 → m.slice Map.right h = s.mem.slice (Map.msg + h) (n - h)) ∧
        (n % 2 = 1 → m.slice Map.right h = s.mem.slice (Map.msg + h) (n - h) ++ [s.straps.pad]) ∧
        SameOutside s.mem m [(Map.left, h), (Map.right, h)])

/-- FAPPLY `k` on a legal key, a half that is not empty and a legal Secret (R172): `FOUT` holds the round function of
`R`, the scratch registers what the last block left, and nothing else changes. -/
def Obligations.FapplyComputesRoundFunction : Prop :=
  ∀ (s : State) (k : Nat), s.Inv → s.err = false → s.keyUsable k → 1 ≤ s.hlen.toNat → s.secretUsable →
    let h := s.hlen.toNat
    ∃ m, exec (.fapply k) s = .next { s with mem := m, flen := s.hlen, blkLen := 64 } ∧
      Units.roundFunction s.hash s.straps s.rightHalf k (s.key k) = .ok (m.slice Map.fout h) ∧
      Units.pad (Units.block s.rightHalf (blockCount h - 1)) 64 s.straps.pad = .ok (m.slice Map.blk 64) ∧
      Units.deriveSalt s.hash s.straps (m.slice Map.blk 64) = .ok (m.slice Map.salt 16) ∧
      m.slice Map.dig 64 = (s.hash (s.key k) (m.slice Map.salt 16) 64 (m.slice Map.blk 64)).toList ∧
      SameOutside s.mem m [(Map.fout, h), (Map.blk, 64), (Map.salt, 16), (Map.dig, 64)]

/-- FAPPLY's errors in their order (R172, R263). -/
def Obligations.FapplyErrorsInOrder : Prop :=
  ∀ (s : State) (k : Nat), s.err = false →
    (s.nkeys.toNat ≤ k → exec (.fapply k) s = .next (s.fail (.indexRange k))) ∧
    (k < s.nkeys.toNat → (s.klen k < 1 ∨ 64 < s.klen k) →
      exec (.fapply k) s = .next (s.fail (.badKeyLength k (s.klen k)))) ∧
    (s.keyUsable k → s.hlen.toNat = 0 → exec (.fapply k) s = .next (s.fail .emptyHalf)) ∧
    (s.keyUsable k → 1 ≤ s.hlen.toNat → ¬ s.secretUsable →
      exec (.fapply k) s = .next (s.fail (.badSecretLength s.straps.secretLen.toNat)))

/-- XORL (R173). -/
def Obligations.XorlCombinesLeftWithFout : Prop :=
  encode .xorl = 0x1200 ∧
  ∀ s : State, s.err = false →
    (s.flen ≠ s.hlen → exec .xorl s = .next (s.fail (.lengthMismatch s.flen.toNat))) ∧
    (s.flen = s.hlen →
      ∃ m, exec .xorl s = .next { s with mem := m } ∧
        (∀ j < s.hlen.toNat, m.get (Map.left + j) = s.mem.get (Map.left + j) ^^^ s.mem.get (Map.fout + j)) ∧
        SameOutside s.mem m [(Map.left, s.hlen.toNat)])

/-- SWAP (R174). -/
def Obligations.SwapExchangesHalves : Prop :=
  encode .swap = 0x1300 ∧
  ∀ s : State, s.Inv → s.err = false →
    ∃ m, exec .swap s = .next { s with mem := m } ∧
      m.slice Map.left s.hlen.toNat = s.rightHalf ∧ m.slice Map.right s.hlen.toNat = s.leftHalf ∧
      SameOutside s.mem m [(Map.left, s.hlen.toNat), (Map.right, s.hlen.toNat)]

/-- ROUND, where it runs to its end (R176, R32): with `f` the round function of `R` under the key that `RND` and
`DIR` select, `(L, R)` becomes `(R, L ⊕ f)`; the scratch buffers are as FAPPLY of that slot leaves them. -/
def Obligations.RoundIsOneFeistelRound : Prop :=
  ∀ s : State, s.Inv → s.err = false → s.rnd.toNat < s.nkeys.toNat →
    let k := if s.dir then s.nkeys.toNat - 1 - s.rnd.toNat else s.rnd.toNat
    let h := s.hlen.toNat
    1 ≤ s.klen k → s.klen k ≤ 64 → 1 ≤ h → s.secretUsable →
    ∃ m f u, Units.roundFunction s.hash s.straps s.rightHalf k (s.key k) = .ok f ∧
      exec (.fapply k) s = .next u ∧
      exec .round s = .next { s with mem := m, flen := s.hlen, blkLen := 64, rnd := s.rnd + 1 } ∧
      m.slice Map.left h = s.rightHalf ∧ m.slice Map.right h = Units.xorBytes s.leftHalf f ∧
      m.slice Map.fout h = f ∧ m.slice Map.blk 64 = u.blockReg ∧ m.slice Map.salt 16 = u.saltReg ∧
      m.slice Map.dig 64 = u.digest ∧
      SameOutside s.mem m [(Map.left, h), (Map.right, h), (Map.fout, h), (Map.blk, 64), (Map.salt, 16),
        (Map.dig, 64)]

/-- ROUND's errors in their order (R176, R263). -/
def Obligations.RoundErrorsInOrder : Prop :=
  ∀ s : State, s.err = false →
    (s.nkeys.toNat ≤ s.rnd.toNat → exec .round s = .next (s.fail (.roundOverrun s.rnd.toNat))) ∧
    (s.rnd.toNat < s.nkeys.toNat →
      let k := if s.dir then s.nkeys.toNat - 1 - s.rnd.toNat else s.rnd.toNat
      ((s.klen k < 1 ∨ 64 < s.klen k) → exec .round s = .next (s.fail (.badKeyLength k (s.klen k)))) ∧
      (1 ≤ s.klen k → s.klen k ≤ 64 → s.hlen.toNat = 0 → exec .round s = .next (s.fail .emptyHalf)) ∧
      (1 ≤ s.klen k → s.klen k ≤ 64 → 1 ≤ s.hlen.toNat → ¬ s.secretUsable →
        exec .round s = .next (s.fail (.badSecretLength s.straps.secretLen.toNat))))

/-- JOIN (R178). -/
def Obligations.JoinPutsRightHalfFirst : Prop :=
  encode .join = 0x1500 ∧
  ∀ s : State, s.Inv → s.err = false →
    ∃ m, exec .join s = .next { s with mem := m, outLen := 2 * s.hlen } ∧
      (2 * s.hlen).toNat = 2 * s.hlen.toNat ∧
      m.slice Map.out s.hlen.toNat = s.rightHalf ∧
      m.slice (Map.out + s.hlen.toNat) s.hlen.toNat = s.leftHalf ∧
      SameOutside s.mem m [(Map.out, 2 * s.hlen.toNat)]

/-- STRIP.H, STRIP.E, STRIP.O (R180): at most the last byte of the output is removed, by its length alone. -/
def Obligations.StripShortensOutput : Prop :=
  encode .stripH = 0x1600 ∧ encode .stripE = 0x1601 ∧ encode .stripO = 0x1603 ∧
  ∀ s : State, s.err = false → ∀ f ∈ stripForms,
    (1 ≤ s.outLen.toNat ∧ ((f.2.1 = false ∧ s.mem.get (Map.out + (s.outLen.toNat - 1)) = s.straps.pad) ∨
        (f.2.1 = true ∧ f.2.2 = true)) →
      exec f.1 s = .next { s with outLen := s.outLen - 1, stripped := true }) ∧
    (¬ (1 ≤ s.outLen.toNat ∧ ((f.2.1 = false ∧ s.mem.get (Map.out + (s.outLen.toNat - 1)) = s.straps.pad) ∨
        (f.2.1 = true ∧ f.2.2 = true))) →
      exec f.1 s = .next { s with stripped := false })

/-- The three STRIPs compute the PaddingTracker's function of the output string (R141, R180). -/
def Obligations.StripComputesPaddingTracker : Prop :=
  ∀ s : State, s.err = false → ∀ f ∈ stripForms,
    ∃ t, exec f.1 s = .next t ∧ Units.strip s.straps.pad s.output f.2.1 f.2.2 = (t.output, t.stripped)

/-! ### Macro commands -/

/-- ENCODE of a ready job (R200): the output is the cipher text of the message under the key list, the registers are
those of a finished job, and only the working buffers and `OUT` change. -/
def Obligations.EncodeComputesTheCipher : Prop :=
  ∀ s : State, s.Inv → s.jobReady →
    let h := (s.msgLen.toNat + 1) / 2
    let odd := decide (s.msgLen.toNat % 2 = 1)
    ∃ m,
      exec .encode s =
        .next { s with
          mem := m, hlen := BitVec.ofNat 16 h, flen := BitVec.ofNat 16 h, rnd := s.nkeys, blkLen := 64,
          padded := odd, dir := false, stripped := false, outLen := BitVec.ofNat 16 (2 * h) } ∧
      Units.encode s.hash s.straps s.message s.keyList = .ok (m.slice Map.out (2 * h), odd) ∧
      m.slice Map.out (2 * h) = m.slice Map.right h ++ m.slice Map.left h ∧
      SameOutside s.mem m [(Map.left, h), (Map.right, h), (Map.fout, h), (Map.blk, 64), (Map.salt, 16),
        (Map.dig, 64), (Map.out, 2 * h)]

/-- Where the cipher fails on the message and the key list, ENCODE fails with the same error and is undone
(R138, R143, R200). -/
def Obligations.EncodeFailsAsTheCipher : Prop :=
  ∀ (s : State) (e : CmdError), s.Inv → s.err = false →
    Units.encode s.hash s.straps s.message s.keyList = .error e → exec .encode s = .next (s.fail e)

/-- DECODE.H, DECODE.E, DECODE.O of a ready job (R202). -/
def Obligations.DecodeComputesTheInverse : Prop :=
  ∀ s : State, s.Inv → s.jobReady → ∀ f ∈ decodeForms,
    let h := (s.msgLen.toNat + 1) / 2
    ∃ m d b, Units.decode s.hash s.straps s.message s.keyList f.2.1 f.2.2 = .ok (d, b) ∧
      exec f.1 s =
        .next { s with
          mem := m, hlen := BitVec.ofNat 16 h, flen := BitVec.ofNat 16 h, rnd := s.nkeys, blkLen := 64,
          padded := decide (s.msgLen.toNat % 2 = 1), dir := true, stripped := b,
          outLen := BitVec.ofNat 16 d.length } ∧
      d.length = 2 * h - b.toNat ∧ m.slice Map.out d.length = d ∧
      SameOutside s.mem m [(Map.left, h), (Map.right, h), (Map.fout, h), (Map.blk, 64), (Map.salt, 16),
        (Map.dig, 64), (Map.out, 2 * h)]

/-- Where the inverse cipher fails, the three DECODEs fail with the same error and are undone (R139, R143, R202). -/
def Obligations.DecodeFailsAsTheInverse : Prop :=
  ∀ (s : State) (e : CmdError), s.Inv → s.err = false → ∀ f ∈ decodeForms,
    Units.decode s.hash s.straps s.message s.keyList f.2.1 f.2.2 = .error e → exec f.1 s = .next (s.fail e)

/-! ### Command sequences -/

/-- `FBLOCK` computes one block of the round function, and `FBLOCK`s over all blocks in order leave what FAPPLY
leaves (R160). -/
def Obligations.FblocksEqualFapply : Prop :=
  ∀ (s : State) (k : Nat), s.Inv → s.err = false → s.keyUsable k → 1 ≤ s.hlen.toNat → s.secretUsable →
    ∃ out, Units.roundFunction s.hash s.straps s.rightHalf k (s.key k) = .ok out ∧
      (∀ i < blockCount s.hlen.toNat, ∃ t, issueAll (Pseudo.fblock k i) s = .next t ∧ t.err = false ∧
        t.mem.slice (Map.fout + 64 * i) (s.blockLen i) = (out.drop (64 * i)).take (s.blockLen i)) ∧
      ∃ t u, issueAll (Pseudo.fblocks k (blockCount s.hlen.toNat) 0) s = .next t ∧
        issue (encode (.fapply k)) s = .next u ∧ t.err = false ∧ t.flen = s.hlen ∧
        t.mem.slice Map.fout s.hlen.toNat = out ∧ u = { t with cmd := encode (.fapply k) }

/-- `ROUNDK` of the slot ROUND would select succeeds exactly when ROUND does, and then leaves the same state but for
`RND` and `CMD` (R177). -/
def Obligations.RoundkEqualsRound : Prop :=
  ∀ s : State, s.Inv → s.err = false → s.rnd.toNat < s.nkeys.toNat →
    ∃ t u, issueAll (Pseudo.roundk s.roundSlot) s = .next t ∧ issue (encode .round) s = .next u ∧
      t.err = u.err ∧ (u.err = false → t = { u with rnd := s.rnd, cmd := 0x1300 })

/-- `ENC` succeeds exactly when ENCODE does and then leaves the same state but for `CMD`; when it fails the error
record is ENCODE's; with no keys SPLIT and JOIN give the exchanged halves where ENCODE fails (R201). -/
def Obligations.EncEqualsEncode : Prop :=
  ∀ s : State, s.Inv → s.err = false →
    (1 ≤ s.nkeys.toNat →
      ∃ t u, issueAll (Pseudo.enc s.nkeys.toNat) s = .next t ∧ issue (encode .encode) s = .next u ∧
        t.err = u.err ∧ t.errcode = u.errcode ∧ t.errinfo = u.errinfo ∧
        (u.err = false → t = { u with cmd := 0x1500 })) ∧
    (s.nkeys.toNat = 0 → 2 ≤ s.msgLen.toNat →
      exec .encode s = .next (s.fail .emptyKeyList) ∧
      ∃ t l r p, issueAll (Pseudo.enc 0) s = .next t ∧ t.err = false ∧
        Units.split s.straps.pad s.message = .ok ⟨l, r, p⟩ ∧ t.output = r ++ l)

/-- `DEC` stands to DECODE as `ENC` to ENCODE (R203). -/
def Obligations.DecEqualsDecode : Prop :=
  ∀ (s : State) (oob odd : Bool), s.Inv → s.err = false → 1 ≤ s.nkeys.toNat →
    ∃ t u, issueAll (Pseudo.dec s.nkeys.toNat oob odd) s = .next t ∧
      issue (encode (Pseudo.decodeOf oob odd)) s = .next u ∧
      t.err = u.err ∧ t.errcode = u.errcode ∧ t.errinfo = u.errinfo ∧
      (u.err = false → t = { u with cmd := encode (Pseudo.stripOf oob odd) })

/-- On the engine: ENCODE, copy the output to the message buffer, DECODE with the parity that `PADDED` gave, and the
output is the message (R142, R202, R297). -/
def Obligations.EngineRoundTrip : Prop :=
  ∀ s : State, s.Inv → s.jobReady →
    ∃ t v, exec .encode s = .next t ∧
      exec (Pseudo.decodeOf true t.padded)
        { t with mem := t.mem.put Map.msg t.output, msgLen := t.outLen } = .next v ∧
      v.err = false ∧ v.output = s.message ∧ v.stripped = t.padded
end

