-- ==== Sys2Proof/Laws/State.lean ====
section
/-! SUPPORT. What each named update does to each field of the state: one lemma per field per update. -/

namespace Sys2Proof.Machine

variable (s : State)

@[simp] theorem State.writeBytes_cmd (a : Nat) (bs : List Byte) : (s.writeBytes a bs).cmd = s.cmd := rfl
@[simp] theorem State.writeBytes_err (a : Nat) (bs : List Byte) : (s.writeBytes a bs).err = s.err := rfl
@[simp] theorem State.writeBytes_padded (a : Nat) (bs : List Byte) : (s.writeBytes a bs).padded = s.padded := rfl
@[simp] theorem State.writeBytes_dir (a : Nat) (bs : List Byte) : (s.writeBytes a bs).dir = s.dir := rfl
@[simp] theorem State.writeBytes_stripped (a : Nat) (bs : List Byte) : (s.writeBytes a bs).stripped = s.stripped := rfl
@[simp] theorem State.writeBytes_errcode (a : Nat) (bs : List Byte) : (s.writeBytes a bs).errcode = s.errcode := rfl
@[simp] theorem State.writeBytes_errinfo (a : Nat) (bs : List Byte) : (s.writeBytes a bs).errinfo = s.errinfo := rfl
@[simp] theorem State.writeBytes_msgLen (a : Nat) (bs : List Byte) : (s.writeBytes a bs).msgLen = s.msgLen := rfl
@[simp] theorem State.writeBytes_outLen (a : Nat) (bs : List Byte) : (s.writeBytes a bs).outLen = s.outLen := rfl
@[simp] theorem State.writeBytes_hlen (a : Nat) (bs : List Byte) : (s.writeBytes a bs).hlen = s.hlen := rfl
@[simp] theorem State.writeBytes_flen (a : Nat) (bs : List Byte) : (s.writeBytes a bs).flen = s.flen := rfl
@[simp] theorem State.writeBytes_nkeys (a : Nat) (bs : List Byte) : (s.writeBytes a bs).nkeys = s.nkeys := rfl
@[simp] theorem State.writeBytes_rnd (a : Nat) (bs : List Byte) : (s.writeBytes a bs).rnd = s.rnd := rfl
@[simp] theorem State.writeBytes_blkLen (a : Nat) (bs : List Byte) : (s.writeBytes a bs).blkLen = s.blkLen := rfl
@[simp] theorem State.writeBytes_mem (a : Nat) (bs : List Byte) : (s.writeBytes a bs).mem = s.mem.put a bs := rfl
@[simp] theorem State.writeBytes_straps (a : Nat) (bs : List Byte) : (s.writeBytes a bs).straps = s.straps := rfl
@[simp] theorem State.writeBytes_kh (a : Nat) (bs : List Byte) : (s.writeBytes a bs).kh = s.kh := rfl
@[simp] theorem State.writeBytes_pending (a : Nat) (bs : List Byte) : (s.writeBytes a bs).pending = s.pending := rfl
@[simp] theorem State.writeBytes_answers (a : Nat) (bs : List Byte) : (s.writeBytes a bs).answers = s.answers := rfl

@[simp] theorem State.setCmd_cmd (w : Word) : (s.setCmd w).cmd = w := rfl
@[simp] theorem State.setCmd_err (w : Word) : (s.setCmd w).err = s.err := rfl
@[simp] theorem State.setCmd_padded (w : Word) : (s.setCmd w).padded = s.padded := rfl
@[simp] theorem State.setCmd_dir (w : Word) : (s.setCmd w).dir = s.dir := rfl
@[simp] theorem State.setCmd_stripped (w : Word) : (s.setCmd w).stripped = s.stripped := rfl
@[simp] theorem State.setCmd_errcode (w : Word) : (s.setCmd w).errcode = s.errcode := rfl
@[simp] theorem State.setCmd_errinfo (w : Word) : (s.setCmd w).errinfo = s.errinfo := rfl
@[simp] theorem State.setCmd_msgLen (w : Word) : (s.setCmd w).msgLen = s.msgLen := rfl
@[simp] theorem State.setCmd_outLen (w : Word) : (s.setCmd w).outLen = s.outLen := rfl
@[simp] theorem State.setCmd_hlen (w : Word) : (s.setCmd w).hlen = s.hlen := rfl
@[simp] theorem State.setCmd_flen (w : Word) : (s.setCmd w).flen = s.flen := rfl
@[simp] theorem State.setCmd_nkeys (w : Word) : (s.setCmd w).nkeys = s.nkeys := rfl
@[simp] theorem State.setCmd_rnd (w : Word) : (s.setCmd w).rnd = s.rnd := rfl
@[simp] theorem State.setCmd_blkLen (w : Word) : (s.setCmd w).blkLen = s.blkLen := rfl
@[simp] theorem State.setCmd_mem (w : Word) : (s.setCmd w).mem = s.mem := rfl
@[simp] theorem State.setCmd_straps (w : Word) : (s.setCmd w).straps = s.straps := rfl
@[simp] theorem State.setCmd_kh (w : Word) : (s.setCmd w).kh = s.kh := rfl
@[simp] theorem State.setCmd_pending (w : Word) : (s.setCmd w).pending = s.pending := rfl
@[simp] theorem State.setCmd_answers (w : Word) : (s.setCmd w).answers = s.answers := rfl

@[simp] theorem State.setMsgLen_cmd (n : Word) : (s.setMsgLen n).cmd = s.cmd := rfl
@[simp] theorem State.setMsgLen_err (n : Word) : (s.setMsgLen n).err = s.err := rfl
@[simp] theorem State.setMsgLen_padded (n : Word) : (s.setMsgLen n).padded = s.padded := rfl
@[simp] theorem State.setMsgLen_dir (n : Word) : (s.setMsgLen n).dir = s.dir := rfl
@[simp] theorem State.setMsgLen_stripped (n : Word) : (s.setMsgLen n).stripped = s.stripped := rfl
@[simp] theorem State.setMsgLen_errcode (n : Word) : (s.setMsgLen n).errcode = s.errcode := rfl
@[simp] theorem State.setMsgLen_errinfo (n : Word) : (s.setMsgLen n).errinfo = s.errinfo := rfl
@[simp] theorem State.setMsgLen_msgLen (n : Word) : (s.setMsgLen n).msgLen = n := rfl
@[simp] theorem State.setMsgLen_outLen (n : Word) : (s.setMsgLen n).outLen = s.outLen := rfl
@[simp] theorem State.setMsgLen_hlen (n : Word) : (s.setMsgLen n).hlen = s.hlen := rfl
@[simp] theorem State.setMsgLen_flen (n : Word) : (s.setMsgLen n).flen = s.flen := rfl
@[simp] theorem State.setMsgLen_nkeys (n : Word) : (s.setMsgLen n).nkeys = s.nkeys := rfl
@[simp] theorem State.setMsgLen_rnd (n : Word) : (s.setMsgLen n).rnd = s.rnd := rfl
@[simp] theorem State.setMsgLen_blkLen (n : Word) : (s.setMsgLen n).blkLen = s.blkLen := rfl
@[simp] theorem State.setMsgLen_mem (n : Word) : (s.setMsgLen n).mem = s.mem := rfl
@[simp] theorem State.setMsgLen_straps (n : Word) : (s.setMsgLen n).straps = s.straps := rfl
@[simp] theorem State.setMsgLen_kh (n : Word) : (s.setMsgLen n).kh = s.kh := rfl
@[simp] theorem State.setMsgLen_pending (n : Word) : (s.setMsgLen n).pending = s.pending := rfl
@[simp] theorem State.setMsgLen_answers (n : Word) : (s.setMsgLen n).answers = s.answers := rfl

@[simp] theorem State.setOutLen_cmd (n : Word) : (s.setOutLen n).cmd = s.cmd := rfl
@[simp] theorem State.setOutLen_err (n : Word) : (s.setOutLen n).err = s.err := rfl
@[simp] theorem State.setOutLen_padded (n : Word) : (s.setOutLen n).padded = s.padded := rfl
@[simp] theorem State.setOutLen_dir (n : Word) : (s.setOutLen n).dir = s.dir := rfl
@[simp] theorem State.setOutLen_stripped (n : Word) : (s.setOutLen n).stripped = s.stripped := rfl
@[simp] theorem State.setOutLen_errcode (n : Word) : (s.setOutLen n).errcode = s.errcode := rfl
@[simp] theorem State.setOutLen_errinfo (n : Word) : (s.setOutLen n).errinfo = s.errinfo := rfl
@[simp] theorem State.setOutLen_msgLen (n : Word) : (s.setOutLen n).msgLen = s.msgLen := rfl
@[simp] theorem State.setOutLen_outLen (n : Word) : (s.setOutLen n).outLen = n := rfl
@[simp] theorem State.setOutLen_hlen (n : Word) : (s.setOutLen n).hlen = s.hlen := rfl
@[simp] theorem State.setOutLen_flen (n : Word) : (s.setOutLen n).flen = s.flen := rfl
@[simp] theorem State.setOutLen_nkeys (n : Word) : (s.setOutLen n).nkeys = s.nkeys := rfl
@[simp] theorem State.setOutLen_rnd (n : Word) : (s.setOutLen n).rnd = s.rnd := rfl
@[simp] theorem State.setOutLen_blkLen (n : Word) : (s.setOutLen n).blkLen = s.blkLen := rfl
@[simp] theorem State.setOutLen_mem (n : Word) : (s.setOutLen n).mem = s.mem := rfl
@[simp] theorem State.setOutLen_straps (n : Word) : (s.setOutLen n).straps = s.straps := rfl
@[simp] theorem State.setOutLen_kh (n : Word) : (s.setOutLen n).kh = s.kh := rfl
@[simp] theorem State.setOutLen_pending (n : Word) : (s.setOutLen n).pending = s.pending := rfl
@[simp] theorem State.setOutLen_answers (n : Word) : (s.setOutLen n).answers = s.answers := rfl

@[simp] theorem State.setHlen_cmd (n : Word) : (s.setHlen n).cmd = s.cmd := rfl
@[simp] theorem State.setHlen_err (n : Word) : (s.setHlen n).err = s.err := rfl
@[simp] theorem State.setHlen_padded (n : Word) : (s.setHlen n).padded = s.padded := rfl
@[simp] theorem State.setHlen_dir (n : Word) : (s.setHlen n).dir = s.dir := rfl
@[simp] theorem State.setHlen_stripped (n : Word) : (s.setHlen n).stripped = s.stripped := rfl
@[simp] theorem State.setHlen_errcode (n : Word) : (s.setHlen n).errcode = s.errcode := rfl
@[simp] theorem State.setHlen_errinfo (n : Word) : (s.setHlen n).errinfo = s.errinfo := rfl
@[simp] theorem State.setHlen_msgLen (n : Word) : (s.setHlen n).msgLen = s.msgLen := rfl
@[simp] theorem State.setHlen_outLen (n : Word) : (s.setHlen n).outLen = s.outLen := rfl
@[simp] theorem State.setHlen_hlen (n : Word) : (s.setHlen n).hlen = n := rfl
@[simp] theorem State.setHlen_flen (n : Word) : (s.setHlen n).flen = s.flen := rfl
@[simp] theorem State.setHlen_nkeys (n : Word) : (s.setHlen n).nkeys = s.nkeys := rfl
@[simp] theorem State.setHlen_rnd (n : Word) : (s.setHlen n).rnd = s.rnd := rfl
@[simp] theorem State.setHlen_blkLen (n : Word) : (s.setHlen n).blkLen = s.blkLen := rfl
@[simp] theorem State.setHlen_mem (n : Word) : (s.setHlen n).mem = s.mem := rfl
@[simp] theorem State.setHlen_straps (n : Word) : (s.setHlen n).straps = s.straps := rfl
@[simp] theorem State.setHlen_kh (n : Word) : (s.setHlen n).kh = s.kh := rfl
@[simp] theorem State.setHlen_pending (n : Word) : (s.setHlen n).pending = s.pending := rfl
@[simp] theorem State.setHlen_answers (n : Word) : (s.setHlen n).answers = s.answers := rfl

@[simp] theorem State.setFlen_cmd (n : Word) : (s.setFlen n).cmd = s.cmd := rfl
@[simp] theorem State.setFlen_err (n : Word) : (s.setFlen n).err = s.err := rfl
@[simp] theorem State.setFlen_padded (n : Word) : (s.setFlen n).padded = s.padded := rfl
@[simp] theorem State.setFlen_dir (n : Word) : (s.setFlen n).dir = s.dir := rfl
@[simp] theorem State.setFlen_stripped (n : Word) : (s.setFlen n).stripped = s.stripped := rfl
@[simp] theorem State.setFlen_errcode (n : Word) : (s.setFlen n).errcode = s.errcode := rfl
@[simp] theorem State.setFlen_errinfo (n : Word) : (s.setFlen n).errinfo = s.errinfo := rfl
@[simp] theorem State.setFlen_msgLen (n : Word) : (s.setFlen n).msgLen = s.msgLen := rfl
@[simp] theorem State.setFlen_outLen (n : Word) : (s.setFlen n).outLen = s.outLen := rfl
@[simp] theorem State.setFlen_hlen (n : Word) : (s.setFlen n).hlen = s.hlen := rfl
@[simp] theorem State.setFlen_flen (n : Word) : (s.setFlen n).flen = n := rfl
@[simp] theorem State.setFlen_nkeys (n : Word) : (s.setFlen n).nkeys = s.nkeys := rfl
@[simp] theorem State.setFlen_rnd (n : Word) : (s.setFlen n).rnd = s.rnd := rfl
@[simp] theorem State.setFlen_blkLen (n : Word) : (s.setFlen n).blkLen = s.blkLen := rfl
@[simp] theorem State.setFlen_mem (n : Word) : (s.setFlen n).mem = s.mem := rfl
@[simp] theorem State.setFlen_straps (n : Word) : (s.setFlen n).straps = s.straps := rfl
@[simp] theorem State.setFlen_kh (n : Word) : (s.setFlen n).kh = s.kh := rfl
@[simp] theorem State.setFlen_pending (n : Word) : (s.setFlen n).pending = s.pending := rfl
@[simp] theorem State.setFlen_answers (n : Word) : (s.setFlen n).answers = s.answers := rfl

@[simp] theorem State.setNkeys_cmd (n : Word) : (s.setNkeys n).cmd = s.cmd := rfl
@[simp] theorem State.setNkeys_err (n : Word) : (s.setNkeys n).err = s.err := rfl
@[simp] theorem State.setNkeys_padded (n : Word) : (s.setNkeys n).padded = s.padded := rfl
@[simp] theorem State.setNkeys_dir (n : Word) : (s.setNkeys n).dir = s.dir := rfl
@[simp] theorem State.setNkeys_stripped (n : Word) : (s.setNkeys n).stripped = s.stripped := rfl
@[simp] theorem State.setNkeys_errcode (n : Word) : (s.setNkeys n).errcode = s.errcode := rfl
@[simp] theorem State.setNkeys_errinfo (n : Word) : (s.setNkeys n).errinfo = s.errinfo := rfl
@[simp] theorem State.setNkeys_msgLen (n : Word) : (s.setNkeys n).msgLen = s.msgLen := rfl
@[simp] theorem State.setNkeys_outLen (n : Word) : (s.setNkeys n).outLen = s.outLen := rfl
@[simp] theorem State.setNkeys_hlen (n : Word) : (s.setNkeys n).hlen = s.hlen := rfl
@[simp] theorem State.setNkeys_flen (n : Word) : (s.setNkeys n).flen = s.flen := rfl
@[simp] theorem State.setNkeys_nkeys (n : Word) : (s.setNkeys n).nkeys = n := rfl
@[simp] theorem State.setNkeys_rnd (n : Word) : (s.setNkeys n).rnd = s.rnd := rfl
@[simp] theorem State.setNkeys_blkLen (n : Word) : (s.setNkeys n).blkLen = s.blkLen := rfl
@[simp] theorem State.setNkeys_mem (n : Word) : (s.setNkeys n).mem = s.mem := rfl
@[simp] theorem State.setNkeys_straps (n : Word) : (s.setNkeys n).straps = s.straps := rfl
@[simp] theorem State.setNkeys_kh (n : Word) : (s.setNkeys n).kh = s.kh := rfl
@[simp] theorem State.setNkeys_pending (n : Word) : (s.setNkeys n).pending = s.pending := rfl
@[simp] theorem State.setNkeys_answers (n : Word) : (s.setNkeys n).answers = s.answers := rfl

@[simp] theorem State.setRnd_cmd (n : Word) : (s.setRnd n).cmd = s.cmd := rfl
@[simp] theorem State.setRnd_err (n : Word) : (s.setRnd n).err = s.err := rfl
@[simp] theorem State.setRnd_padded (n : Word) : (s.setRnd n).padded = s.padded := rfl
@[simp] theorem State.setRnd_dir (n : Word) : (s.setRnd n).dir = s.dir := rfl
@[simp] theorem State.setRnd_stripped (n : Word) : (s.setRnd n).stripped = s.stripped := rfl
@[simp] theorem State.setRnd_errcode (n : Word) : (s.setRnd n).errcode = s.errcode := rfl
@[simp] theorem State.setRnd_errinfo (n : Word) : (s.setRnd n).errinfo = s.errinfo := rfl
@[simp] theorem State.setRnd_msgLen (n : Word) : (s.setRnd n).msgLen = s.msgLen := rfl
@[simp] theorem State.setRnd_outLen (n : Word) : (s.setRnd n).outLen = s.outLen := rfl
@[simp] theorem State.setRnd_hlen (n : Word) : (s.setRnd n).hlen = s.hlen := rfl
@[simp] theorem State.setRnd_flen (n : Word) : (s.setRnd n).flen = s.flen := rfl
@[simp] theorem State.setRnd_nkeys (n : Word) : (s.setRnd n).nkeys = s.nkeys := rfl
@[simp] theorem State.setRnd_rnd (n : Word) : (s.setRnd n).rnd = n := rfl
@[simp] theorem State.setRnd_blkLen (n : Word) : (s.setRnd n).blkLen = s.blkLen := rfl
@[simp] theorem State.setRnd_mem (n : Word) : (s.setRnd n).mem = s.mem := rfl
@[simp] theorem State.setRnd_straps (n : Word) : (s.setRnd n).straps = s.straps := rfl
@[simp] theorem State.setRnd_kh (n : Word) : (s.setRnd n).kh = s.kh := rfl
@[simp] theorem State.setRnd_pending (n : Word) : (s.setRnd n).pending = s.pending := rfl
@[simp] theorem State.setRnd_answers (n : Word) : (s.setRnd n).answers = s.answers := rfl

@[simp] theorem State.setBlkLen_cmd (n : Word) : (s.setBlkLen n).cmd = s.cmd := rfl
@[simp] theorem State.setBlkLen_err (n : Word) : (s.setBlkLen n).err = s.err := rfl
@[simp] theorem State.setBlkLen_padded (n : Word) : (s.setBlkLen n).padded = s.padded := rfl
@[simp] theorem State.setBlkLen_dir (n : Word) : (s.setBlkLen n).dir = s.dir := rfl
@[simp] theorem State.setBlkLen_stripped (n : Word) : (s.setBlkLen n).stripped = s.stripped := rfl
@[simp] theorem State.setBlkLen_errcode (n : Word) : (s.setBlkLen n).errcode = s.errcode := rfl
@[simp] theorem State.setBlkLen_errinfo (n : Word) : (s.setBlkLen n).errinfo = s.errinfo := rfl
@[simp] theorem State.setBlkLen_msgLen (n : Word) : (s.setBlkLen n).msgLen = s.msgLen := rfl
@[simp] theorem State.setBlkLen_outLen (n : Word) : (s.setBlkLen n).outLen = s.outLen := rfl
@[simp] theorem State.setBlkLen_hlen (n : Word) : (s.setBlkLen n).hlen = s.hlen := rfl
@[simp] theorem State.setBlkLen_flen (n : Word) : (s.setBlkLen n).flen = s.flen := rfl
@[simp] theorem State.setBlkLen_nkeys (n : Word) : (s.setBlkLen n).nkeys = s.nkeys := rfl
@[simp] theorem State.setBlkLen_rnd (n : Word) : (s.setBlkLen n).rnd = s.rnd := rfl
@[simp] theorem State.setBlkLen_blkLen (n : Word) : (s.setBlkLen n).blkLen = n := rfl
@[simp] theorem State.setBlkLen_mem (n : Word) : (s.setBlkLen n).mem = s.mem := rfl
@[simp] theorem State.setBlkLen_straps (n : Word) : (s.setBlkLen n).straps = s.straps := rfl
@[simp] theorem State.setBlkLen_kh (n : Word) : (s.setBlkLen n).kh = s.kh := rfl
@[simp] theorem State.setBlkLen_pending (n : Word) : (s.setBlkLen n).pending = s.pending := rfl
@[simp] theorem State.setBlkLen_answers (n : Word) : (s.setBlkLen n).answers = s.answers := rfl

@[simp] theorem State.setStripped_cmd (b : Bool) : (s.setStripped b).cmd = s.cmd := rfl
@[simp] theorem State.setStripped_err (b : Bool) : (s.setStripped b).err = s.err := rfl
@[simp] theorem State.setStripped_padded (b : Bool) : (s.setStripped b).padded = s.padded := rfl
@[simp] theorem State.setStripped_dir (b : Bool) : (s.setStripped b).dir = s.dir := rfl
@[simp] theorem State.setStripped_stripped (b : Bool) : (s.setStripped b).stripped = b := rfl
@[simp] theorem State.setStripped_errcode (b : Bool) : (s.setStripped b).errcode = s.errcode := rfl
@[simp] theorem State.setStripped_errinfo (b : Bool) : (s.setStripped b).errinfo = s.errinfo := rfl
@[simp] theorem State.setStripped_msgLen (b : Bool) : (s.setStripped b).msgLen = s.msgLen := rfl
@[simp] theorem State.setStripped_outLen (b : Bool) : (s.setStripped b).outLen = s.outLen := rfl
@[simp] theorem State.setStripped_hlen (b : Bool) : (s.setStripped b).hlen = s.hlen := rfl
@[simp] theorem State.setStripped_flen (b : Bool) : (s.setStripped b).flen = s.flen := rfl
@[simp] theorem State.setStripped_nkeys (b : Bool) : (s.setStripped b).nkeys = s.nkeys := rfl
@[simp] theorem State.setStripped_rnd (b : Bool) : (s.setStripped b).rnd = s.rnd := rfl
@[simp] theorem State.setStripped_blkLen (b : Bool) : (s.setStripped b).blkLen = s.blkLen := rfl
@[simp] theorem State.setStripped_mem (b : Bool) : (s.setStripped b).mem = s.mem := rfl
@[simp] theorem State.setStripped_straps (b : Bool) : (s.setStripped b).straps = s.straps := rfl
@[simp] theorem State.setStripped_kh (b : Bool) : (s.setStripped b).kh = s.kh := rfl
@[simp] theorem State.setStripped_pending (b : Bool) : (s.setStripped b).pending = s.pending := rfl
@[simp] theorem State.setStripped_answers (b : Bool) : (s.setStripped b).answers = s.answers := rfl

@[simp] theorem State.startJob_cmd (h : Nat) (p d : Bool) : (s.startJob h p d).cmd = s.cmd := rfl
@[simp] theorem State.startJob_err (h : Nat) (p d : Bool) : (s.startJob h p d).err = s.err := rfl
@[simp] theorem State.startJob_padded (h : Nat) (p d : Bool) : (s.startJob h p d).padded = p := rfl
@[simp] theorem State.startJob_dir (h : Nat) (p d : Bool) : (s.startJob h p d).dir = d := rfl
@[simp] theorem State.startJob_stripped (h : Nat) (p d : Bool) : (s.startJob h p d).stripped = false := rfl
@[simp] theorem State.startJob_errcode (h : Nat) (p d : Bool) : (s.startJob h p d).errcode = s.errcode := rfl
@[simp] theorem State.startJob_errinfo (h : Nat) (p d : Bool) : (s.startJob h p d).errinfo = s.errinfo := rfl
@[simp] theorem State.startJob_msgLen (h : Nat) (p d : Bool) : (s.startJob h p d).msgLen = s.msgLen := rfl
@[simp] theorem State.startJob_outLen (h : Nat) (p d : Bool) : (s.startJob h p d).outLen = s.outLen := rfl
@[simp] theorem State.startJob_hlen (h : Nat) (p d : Bool) : (s.startJob h p d).hlen = BitVec.ofNat 16 h := rfl
@[simp] theorem State.startJob_flen (h : Nat) (p d : Bool) : (s.startJob h p d).flen = 0 := rfl
@[simp] theorem State.startJob_nkeys (h : Nat) (p d : Bool) : (s.startJob h p d).nkeys = s.nkeys := rfl
@[simp] theorem State.startJob_rnd (h : Nat) (p d : Bool) : (s.startJob h p d).rnd = 0 := rfl
@[simp] theorem State.startJob_blkLen (h : Nat) (p d : Bool) : (s.startJob h p d).blkLen = s.blkLen := rfl
@[simp] theorem State.startJob_mem (h : Nat) (p d : Bool) : (s.startJob h p d).mem = s.mem := rfl
@[simp] theorem State.startJob_straps (h : Nat) (p d : Bool) : (s.startJob h p d).straps = s.straps := rfl
@[simp] theorem State.startJob_kh (h : Nat) (p d : Bool) : (s.startJob h p d).kh = s.kh := rfl
@[simp] theorem State.startJob_pending (h : Nat) (p d : Bool) : (s.startJob h p d).pending = s.pending := rfl
@[simp] theorem State.startJob_answers (h : Nat) (p d : Bool) : (s.startJob h p d).answers = s.answers := rfl

@[simp] theorem State.fail_cmd (e : CmdError) : (s.fail e).cmd = s.cmd := rfl
@[simp] theorem State.fail_err (e : CmdError) : (s.fail e).err = true := rfl
@[simp] theorem State.fail_padded (e : CmdError) : (s.fail e).padded = s.padded := rfl
@[simp] theorem State.fail_dir (e : CmdError) : (s.fail e).dir = s.dir := rfl
@[simp] theorem State.fail_stripped (e : CmdError) : (s.fail e).stripped = s.stripped := rfl
@[simp] theorem State.fail_errcode (e : CmdError) : (s.fail e).errcode = e.code := rfl
@[simp] theorem State.fail_errinfo (e : CmdError) : (s.fail e).errinfo = e.info := rfl
@[simp] theorem State.fail_msgLen (e : CmdError) : (s.fail e).msgLen = s.msgLen := rfl
@[simp] theorem State.fail_outLen (e : CmdError) : (s.fail e).outLen = s.outLen := rfl
@[simp] theorem State.fail_hlen (e : CmdError) : (s.fail e).hlen = s.hlen := rfl
@[simp] theorem State.fail_flen (e : CmdError) : (s.fail e).flen = s.flen := rfl
@[simp] theorem State.fail_nkeys (e : CmdError) : (s.fail e).nkeys = s.nkeys := rfl
@[simp] theorem State.fail_rnd (e : CmdError) : (s.fail e).rnd = s.rnd := rfl
@[simp] theorem State.fail_blkLen (e : CmdError) : (s.fail e).blkLen = s.blkLen := rfl
@[simp] theorem State.fail_mem (e : CmdError) : (s.fail e).mem = s.mem := rfl
@[simp] theorem State.fail_straps (e : CmdError) : (s.fail e).straps = s.straps := rfl
@[simp] theorem State.fail_kh (e : CmdError) : (s.fail e).kh = s.kh := rfl
@[simp] theorem State.fail_pending (e : CmdError) : (s.fail e).pending = s.pending := rfl
@[simp] theorem State.fail_answers (e : CmdError) : (s.fail e).answers = s.answers := rfl

@[simp] theorem State.ackError_cmd : (s.ackError).cmd = s.cmd := rfl
@[simp] theorem State.ackError_err : (s.ackError).err = false := rfl
@[simp] theorem State.ackError_padded : (s.ackError).padded = s.padded := rfl
@[simp] theorem State.ackError_dir : (s.ackError).dir = s.dir := rfl
@[simp] theorem State.ackError_stripped : (s.ackError).stripped = s.stripped := rfl
@[simp] theorem State.ackError_errcode : (s.ackError).errcode = 0 := rfl
@[simp] theorem State.ackError_errinfo : (s.ackError).errinfo = 0 := rfl
@[simp] theorem State.ackError_msgLen : (s.ackError).msgLen = s.msgLen := rfl
@[simp] theorem State.ackError_outLen : (s.ackError).outLen = s.outLen := rfl
@[simp] theorem State.ackError_hlen : (s.ackError).hlen = s.hlen := rfl
@[simp] theorem State.ackError_flen : (s.ackError).flen = s.flen := rfl
@[simp] theorem State.ackError_nkeys : (s.ackError).nkeys = s.nkeys := rfl
@[simp] theorem State.ackError_rnd : (s.ackError).rnd = s.rnd := rfl
@[simp] theorem State.ackError_blkLen : (s.ackError).blkLen = s.blkLen := rfl
@[simp] theorem State.ackError_mem : (s.ackError).mem = s.mem := rfl
@[simp] theorem State.ackError_straps : (s.ackError).straps = s.straps := rfl
@[simp] theorem State.ackError_kh : (s.ackError).kh = s.kh := rfl
@[simp] theorem State.ackError_pending : (s.ackError).pending = s.pending := rfl
@[simp] theorem State.ackError_answers : (s.ackError).answers = s.answers := rfl

@[simp] theorem State.clearRegs_cmd : (s.clearRegs).cmd = 0 := rfl
@[simp] theorem State.clearRegs_err : (s.clearRegs).err = false := rfl
@[simp] theorem State.clearRegs_padded : (s.clearRegs).padded = false := rfl
@[simp] theorem State.clearRegs_dir : (s.clearRegs).dir = false := rfl
@[simp] theorem State.clearRegs_stripped : (s.clearRegs).stripped = false := rfl
@[simp] theorem State.clearRegs_errcode : (s.clearRegs).errcode = 0 := rfl
@[simp] theorem State.clearRegs_errinfo : (s.clearRegs).errinfo = 0 := rfl
@[simp] theorem State.clearRegs_msgLen : (s.clearRegs).msgLen = 0 := rfl
@[simp] theorem State.clearRegs_outLen : (s.clearRegs).outLen = 0 := rfl
@[simp] theorem State.clearRegs_hlen : (s.clearRegs).hlen = 0 := rfl
@[simp] theorem State.clearRegs_flen : (s.clearRegs).flen = 0 := rfl
@[simp] theorem State.clearRegs_nkeys : (s.clearRegs).nkeys = 0 := rfl
@[simp] theorem State.clearRegs_rnd : (s.clearRegs).rnd = 0 := rfl
@[simp] theorem State.clearRegs_blkLen : (s.clearRegs).blkLen = 0 := rfl
@[simp] theorem State.clearRegs_mem : (s.clearRegs).mem = s.mem := rfl
@[simp] theorem State.clearRegs_straps : (s.clearRegs).straps = s.straps := rfl
@[simp] theorem State.clearRegs_kh : (s.clearRegs).kh = s.kh := rfl
@[simp] theorem State.clearRegs_pending : (s.clearRegs).pending = s.pending := rfl
@[simp] theorem State.clearRegs_answers : (s.clearRegs).answers = s.answers := rfl

@[simp] theorem State.softReset_cmd : (s.softReset).cmd = 0 := rfl
@[simp] theorem State.softReset_err : (s.softReset).err = false := rfl
@[simp] theorem State.softReset_padded : (s.softReset).padded = false := rfl
@[simp] theorem State.softReset_dir : (s.softReset).dir = false := rfl
@[simp] theorem State.softReset_stripped : (s.softReset).stripped = false := rfl
@[simp] theorem State.softReset_errcode : (s.softReset).errcode = 0 := rfl
@[simp] theorem State.softReset_errinfo : (s.softReset).errinfo = 0 := rfl
@[simp] theorem State.softReset_msgLen : (s.softReset).msgLen = 0 := rfl
@[simp] theorem State.softReset_outLen : (s.softReset).outLen = 0 := rfl
@[simp] theorem State.softReset_hlen : (s.softReset).hlen = 0 := rfl
@[simp] theorem State.softReset_flen : (s.softReset).flen = 0 := rfl
@[simp] theorem State.softReset_nkeys : (s.softReset).nkeys = 0 := rfl
@[simp] theorem State.softReset_rnd : (s.softReset).rnd = 0 := rfl
@[simp] theorem State.softReset_blkLen : (s.softReset).blkLen = 0 := rfl
@[simp] theorem State.softReset_mem : (s.softReset).mem = ((s.mem.put Map.klen (List.replicate 32 0#8)).put Map.salt
      (List.replicate 16 0#8)).put Map.dig (List.replicate 64 0#8) := rfl
@[simp] theorem State.softReset_straps : (s.softReset).straps = s.straps := rfl
@[simp] theorem State.softReset_kh : (s.softReset).kh = s.kh := rfl
@[simp] theorem State.softReset_pending : (s.softReset).pending = s.pending := rfl
@[simp] theorem State.softReset_answers : (s.softReset).answers = s.answers := rfl

@[simp] theorem State.hardReset_cmd (st : Straps) (kh : HashInstance) (im : List Host.Cell) : (s.hardReset st kh im).cmd = 0 := rfl
@[simp] theorem State.hardReset_err (st : Straps) (kh : HashInstance) (im : List Host.Cell) : (s.hardReset st kh im).err = false := rfl
@[simp] theorem State.hardReset_padded (st : Straps) (kh : HashInstance) (im : List Host.Cell) : (s.hardReset st kh im).padded = false := rfl
@[simp] theorem State.hardReset_dir (st : Straps) (kh : HashInstance) (im : List Host.Cell) : (s.hardReset st kh im).dir = false := rfl
@[simp] theorem State.hardReset_stripped (st : Straps) (kh : HashInstance) (im : List Host.Cell) : (s.hardReset st kh im).stripped = false := rfl
@[simp] theorem State.hardReset_errcode (st : Straps) (kh : HashInstance) (im : List Host.Cell) : (s.hardReset st kh im).errcode = 0 := rfl
@[simp] theorem State.hardReset_errinfo (st : Straps) (kh : HashInstance) (im : List Host.Cell) : (s.hardReset st kh im).errinfo = 0 := rfl
@[simp] theorem State.hardReset_msgLen (st : Straps) (kh : HashInstance) (im : List Host.Cell) : (s.hardReset st kh im).msgLen = 0 := rfl
@[simp] theorem State.hardReset_outLen (st : Straps) (kh : HashInstance) (im : List Host.Cell) : (s.hardReset st kh im).outLen = 0 := rfl
@[simp] theorem State.hardReset_hlen (st : Straps) (kh : HashInstance) (im : List Host.Cell) : (s.hardReset st kh im).hlen = 0 := rfl
@[simp] theorem State.hardReset_flen (st : Straps) (kh : HashInstance) (im : List Host.Cell) : (s.hardReset st kh im).flen = 0 := rfl
@[simp] theorem State.hardReset_nkeys (st : Straps) (kh : HashInstance) (im : List Host.Cell) : (s.hardReset st kh im).nkeys = 0 := rfl
@[simp] theorem State.hardReset_rnd (st : Straps) (kh : HashInstance) (im : List Host.Cell) : (s.hardReset st kh im).rnd = 0 := rfl
@[simp] theorem State.hardReset_blkLen (st : Straps) (kh : HashInstance) (im : List Host.Cell) : (s.hardReset st kh im).blkLen = 0 := rfl
@[simp] theorem State.hardReset_mem (st : Straps) (kh : HashInstance) (im : List Host.Cell) : (s.hardReset st kh im).mem = Mem.ofImage im := rfl
@[simp] theorem State.hardReset_straps (st : Straps) (kh : HashInstance) (im : List Host.Cell) : (s.hardReset st kh im).straps = st := rfl
@[simp] theorem State.hardReset_kh (st : Straps) (kh : HashInstance) (im : List Host.Cell) : (s.hardReset st kh im).kh = kh := rfl
@[simp] theorem State.hardReset_pending (st : Straps) (kh : HashInstance) (im : List Host.Cell) : (s.hardReset st kh im).pending = s.pending := rfl
@[simp] theorem State.hardReset_answers (st : Straps) (kh : HashInstance) (im : List Host.Cell) : (s.hardReset st kh im).answers = s.answers := rfl

@[simp] theorem State.answer_cmd (r : BusResponse) : (s.answer r).cmd = s.cmd := rfl
@[simp] theorem State.answer_err (r : BusResponse) : (s.answer r).err = s.err := rfl
@[simp] theorem State.answer_padded (r : BusResponse) : (s.answer r).padded = s.padded := rfl
@[simp] theorem State.answer_dir (r : BusResponse) : (s.answer r).dir = s.dir := rfl
@[simp] theorem State.answer_stripped (r : BusResponse) : (s.answer r).stripped = s.stripped := rfl
@[simp] theorem State.answer_errcode (r : BusResponse) : (s.answer r).errcode = s.errcode := rfl
@[simp] theorem State.answer_errinfo (r : BusResponse) : (s.answer r).errinfo = s.errinfo := rfl
@[simp] theorem State.answer_msgLen (r : BusResponse) : (s.answer r).msgLen = s.msgLen := rfl
@[simp] theorem State.answer_outLen (r : BusResponse) : (s.answer r).outLen = s.outLen := rfl
@[simp] theorem State.answer_hlen (r : BusResponse) : (s.answer r).hlen = s.hlen := rfl
@[simp] theorem State.answer_flen (r : BusResponse) : (s.answer r).flen = s.flen := rfl
@[simp] theorem State.answer_nkeys (r : BusResponse) : (s.answer r).nkeys = s.nkeys := rfl
@[simp] theorem State.answer_rnd (r : BusResponse) : (s.answer r).rnd = s.rnd := rfl
@[simp] theorem State.answer_blkLen (r : BusResponse) : (s.answer r).blkLen = s.blkLen := rfl
@[simp] theorem State.answer_mem (r : BusResponse) : (s.answer r).mem = s.mem := rfl
@[simp] theorem State.answer_straps (r : BusResponse) : (s.answer r).straps = s.straps := rfl
@[simp] theorem State.answer_kh (r : BusResponse) : (s.answer r).kh = s.kh := rfl
@[simp] theorem State.answer_pending (r : BusResponse) : (s.answer r).pending = s.pending := rfl
@[simp] theorem State.answer_answers (r : BusResponse) : (s.answer r).answers = r :: s.answers := rfl

@[simp] theorem State.setPending_cmd (as : List HostAction) : (s.setPending as).cmd = s.cmd := rfl
@[simp] theorem State.setPending_err (as : List HostAction) : (s.setPending as).err = s.err := rfl
@[simp] theorem State.setPending_padded (as : List HostAction) : (s.setPending as).padded = s.padded := rfl
@[simp] theorem State.setPending_dir (as : List HostAction) : (s.setPending as).dir = s.dir := rfl
@[simp] theorem State.setPending_stripped (as : List HostAction) : (s.setPending as).stripped = s.stripped := rfl
@[simp] theorem State.setPending_errcode (as : List HostAction) : (s.setPending as).errcode = s.errcode := rfl
@[simp] theorem State.setPending_errinfo (as : List HostAction) : (s.setPending as).errinfo = s.errinfo := rfl
@[simp] theorem State.setPending_msgLen (as : List HostAction) : (s.setPending as).msgLen = s.msgLen := rfl
@[simp] theorem State.setPending_outLen (as : List HostAction) : (s.setPending as).outLen = s.outLen := rfl
@[simp] theorem State.setPending_hlen (as : List HostAction) : (s.setPending as).hlen = s.hlen := rfl
@[simp] theorem State.setPending_flen (as : List HostAction) : (s.setPending as).flen = s.flen := rfl
@[simp] theorem State.setPending_nkeys (as : List HostAction) : (s.setPending as).nkeys = s.nkeys := rfl
@[simp] theorem State.setPending_rnd (as : List HostAction) : (s.setPending as).rnd = s.rnd := rfl
@[simp] theorem State.setPending_blkLen (as : List HostAction) : (s.setPending as).blkLen = s.blkLen := rfl
@[simp] theorem State.setPending_mem (as : List HostAction) : (s.setPending as).mem = s.mem := rfl
@[simp] theorem State.setPending_straps (as : List HostAction) : (s.setPending as).straps = s.straps := rfl
@[simp] theorem State.setPending_kh (as : List HostAction) : (s.setPending as).kh = s.kh := rfl
@[simp] theorem State.setPending_pending (as : List HostAction) : (s.setPending as).pending = as := rfl
@[simp] theorem State.setPending_answers (as : List HostAction) : (s.setPending as).answers = s.answers := rfl

end Sys2Proof.Machine
end

