-- ==== Sys2Proof/Laws/Bus.lean ====
section
/-! SUPPORT. What issuing a command and what each bus transaction can do, said once. -/

namespace Sys2Proof.Machine

theorem issue_of_decode (w : Word) (s : State) (i : Instr) (h : decode w = .ok i) :
    issue w s = exec i (s.setCmd w) := by
  simp [issue, h]

theorem issue_of_illegal (w : Word) (s : State) (e : DecodeError) (h : decode w = .error e) :
    issue w s = illegalWord w (s.setCmd w) := by
  simp [issue, h]

/-- A checked register write answers the new state exactly when the value is in range (R70). -/
theorem checked_some_iff (v : Word) (max : Nat) (t u : State) :
    checked v max t = some u ↔ v.toNat ≤ max ∧ u = t := by
  unfold checked
  by_cases h : v.toNat ≤ max <;> simp [h, eq_comm]

/-- A 1-byte write is done exactly at a mapped buffer address (R64, R68, R71). -/
theorem State.busWrite8_some_iff (s t : State) (a : Word) (v : Byte) :
    s.busWrite8 a v = some t ↔ isBuffer a.toNat = true ∧ t = s.writeBytes a.toNat [v] := by
  unfold State.busWrite8
  by_cases h : isBuffer a.toNat = true <;> simp [h, eq_comm]

/-- A 2-byte write is done at an even address: to a writable control register, or to a mapped buffer (R63 to
R71). -/
theorem State.busWrite16_some_iff (s t : State) (a : Word) (v : Word) :
    s.busWrite16 a v = some t ↔ isOdd a.toNat = false ∧
      ((isCtrl a.toNat = true ∧ ∃ r, ctrlReg a.toNat = some r ∧ s.ctrlWrite r v = some t) ∨
       (isCtrl a.toNat = false ∧ isBuffer a.toNat = true ∧
          t = s.writeBytes a.toNat [lowByte v, highByte v])) := by
  have he : s.busWrite16 a v = if isOdd a.toNat then none else if isCtrl a.toNat then
      (match ctrlReg a.toNat with | some r => s.ctrlWrite r v | none => none)
      else if isBuffer a.toNat then some (s.writeBytes a.toNat [lowByte v, highByte v]) else none := rfl
  rw [he]
  generalize isOdd a.toNat = o
  generalize isCtrl a.toNat = c
  generalize isBuffer a.toNat = b
  generalize s.writeBytes a.toNat [lowByte v, highByte v] = u
  cases o <;> cases c <;> cases b <;> cases ctrlReg a.toNat <;> simp [eq_comm (a := u)]

/-- A write is answered `OK` with its effect or `ERR` with none (R62, R73). -/
theorem State.answerWrite_cases (s : State) (r : Option State) :
    (∃ t, r = some t ∧ s.answerWrite r = t.answer .ok) ∨ (r = none ∧ s.answerWrite r = s.answer .err) := by
  cases r <;> simp [State.answerWrite]

theorem step_idle (s : State) (h : s.pending = []) : step s = .next s := by
  simp [step, stepHost, h]

theorem step_action (s : State) (act : HostAction) (rest : List HostAction) (h : s.pending = act :: rest) :
    step s = perform act (s.setPending rest) := by
  simp [step, stepHost, h]

theorem perform_command (w : Word) (s : State) :
    perform (.write16 0 w) s = issue w (s.answer .ok) := by
  simp [perform]

end Sys2Proof.Machine
end

