-- ==== Sys2Proof/Laws/Memory.lean ====
section
/-! SUPPORT. The laws of the buffer storage: read after write, strings, and the canonical form. -/

namespace Sys2Proof.Machine

/-! ### Reading one byte -/

theorem lookup_append_fst (m n : Mem) (x : Nat) :
    (m ++ n).lookup x = (m.lookup x).or (n.lookup x) := by
  induction m with
  | nil => simp
  | cons c m ih =>
    obtain ⟨a, b⟩ := c
    by_cases h : x = a
    · subst h; simp
    · have : (x == a) = false := by simpa using h
      simp [List.lookup_cons, this, ih]

theorem lookup_filter_of_keep (m : Mem) (p : Nat → Bool) (x : Nat) (hx : p x = true) :
    (m.filter (fun c => p c.1)).lookup x = m.lookup x := by
  induction m with
  | nil => rfl
  | cons c m ih =>
    obtain ⟨a, b⟩ := c
    by_cases h : x = a
    · subst h; simp [hx]
    · have hxa : (x == a) = false := by simpa using h
      by_cases hp : p a = true
      · simp [hp, List.lookup_cons, hxa, ih]
      · simp [hp, List.lookup_cons, hxa, ih]

theorem lookup_filter_of_drop (m : Mem) (p : Nat → Bool) (x : Nat) (hx : p x = false) :
    (m.filter (fun c => p c.1)).lookup x = none := by
  rw [List.lookup_eq_none_iff]
  intro c hc
  have := (List.mem_filter.1 hc).2
  simp only [bne_iff_ne, ne_eq]
  rintro rfl
  simp_all

theorem cellsAt_addr (bs : List Byte) : ∀ (a : Nat) (c : Host.Cell), c ∈ cellsAt a bs →
    a ≤ c.1 ∧ c.1 < a + bs.length ∧ c.2 ≠ unwritten c.1 := by
  induction bs with
  | nil => simp [cellsAt]
  | cons b bs ih =>
    intro a c hc
    unfold cellsAt at hc
    split at hc
    · have := ih (a + 1) c hc
      simp only [List.length_cons]
      exact ⟨by omega, by omega, this.2.2⟩
    · rcases List.mem_cons.1 hc with rfl | hc
      · refine ⟨le_refl _, by simp, by assumption⟩
      · have := ih (a + 1) c hc
        simp only [List.length_cons]
        exact ⟨by omega, by omega, this.2.2⟩

theorem lookup_cellsAt (bs : List Byte) : ∀ (a x : Nat), a ≤ x → x < a + bs.length →
    ((cellsAt a bs).lookup x).getD (unwritten x) = bs.getD (x - a) 0 := by
  induction bs with
  | nil => intro a x h1 h2; simp at h2; omega
  | cons b bs ih =>
    intro a x h1 h2
    simp only [List.length_cons] at h2
    unfold cellsAt
    by_cases hx : x = a
    · subst hx
      by_cases hb : b = unwritten x
      · have hn : (cellsAt (x + 1) bs).lookup x = none := by
          rw [List.lookup_eq_none_iff]
          intro c hc
          have := (cellsAt_addr bs (x + 1) c hc).1
          simp only [bne_iff_ne, ne_eq]; omega
        simp [hb, hn]
      · simp [hb]
    · have hxa : (x == a) = false := by simpa using hx
      have hi := ih (a + 1) x (by omega) (by omega)
      have hd : x - a = (x - (a + 1)) + 1 := by omega
      by_cases hb : b = unwritten a
      · rw [if_pos hb, hi, hd]; simp
      · rw [if_neg hb, List.lookup_cons, hxa, hd]
        simpa using hi

theorem Mem.get_put_in (m : Mem) (a : Nat) (bs : List Byte) (x : Nat)
    (h1 : a ≤ x) (h2 : x < a + bs.length) : (m.put a bs).get x = bs.getD (x - a) 0 := by
  unfold Mem.get Mem.put
  rw [lookup_append_fst, lookup_append_fst,
    lookup_filter_of_drop m (fun i => decide (i < a)) x (by simpa using h1),
    lookup_filter_of_drop m (fun i => decide (a + bs.length ≤ i)) x (by simpa using h2)]
  simpa using lookup_cellsAt bs a x h1 h2

theorem Mem.get_put_out (m : Mem) (a : Nat) (bs : List Byte) (x : Nat)
    (h : x < a ∨ a + bs.length ≤ x) : (m.put a bs).get x = m.get x := by
  unfold Mem.get Mem.put
  have hc : (cellsAt a bs).lookup x = none := by
    rw [List.lookup_eq_none_iff]
    intro c hc
    have := cellsAt_addr bs a c hc
    simp only [bne_iff_ne, ne_eq]; omega
  rw [lookup_append_fst, lookup_append_fst, hc]
  rcases h with h | h
  · rw [lookup_filter_of_keep m (fun i => decide (i < a)) x (by simpa using h),
      lookup_filter_of_drop m (fun i => decide (a + bs.length ≤ i)) x (by simp; omega)]
    simp
  · rw [lookup_filter_of_drop m (fun i => decide (i < a)) x (by simp; omega),
      lookup_filter_of_keep m (fun i => decide (a + bs.length ≤ i)) x (by simpa using h)]
    simp

/-- Read after write, every address. -/
theorem Mem.get_put (m : Mem) (a : Nat) (bs : List Byte) (x : Nat) :
    (m.put a bs).get x = if a ≤ x ∧ x < a + bs.length then bs.getD (x - a) 0 else m.get x := by
  split
  · next h => exact m.get_put_in a bs x h.1 h.2
  · next h => exact m.get_put_out a bs x (by omega)

@[simp] theorem Mem.get_nil (x : Nat) : Mem.get [] x = unwritten x := rfl

/-! ### Byte strings -/

@[simp] theorem Mem.slice_length (m : Mem) (a n : Nat) : (m.slice a n).length = n := by
  simp [Mem.slice]

@[simp] theorem Mem.slice_zero (m : Mem) (a : Nat) : m.slice a 0 = [] := rfl

@[simp] theorem Mem.getElem_slice (m : Mem) (a n j : Nat) (h : j < (m.slice a n).length) :
    (m.slice a n)[j] = m.get (a + j) := by
  simp [Mem.slice]

theorem Mem.slice_getD (m : Mem) (a n j : Nat) (h : j < n) : (m.slice a n).getD j 0 = m.get (a + j) := by
  simp [Mem.slice, List.getD_eq_getElem?_getD, h]

/-- Two strings are equal when the bytes they read are. -/
theorem Mem.slice_congr (m m' : Mem) (a a' n : Nat) (h : ∀ j < n, m'.get (a' + j) = m.get (a + j)) :
    m'.slice a' n = m.slice a n := by
  apply List.ext_getElem <;> simp_all

theorem Mem.slice_add (m : Mem) (a p q : Nat) : m.slice a (p + q) = m.slice a p ++ m.slice (a + p) q := by
  unfold Mem.slice
  rw [List.range_add, List.map_append, List.map_map]
  congr 1
  apply List.map_congr_left
  intro j _
  simp [Nat.add_assoc]

theorem Mem.slice_take (m : Mem) (a n k : Nat) (h : k ≤ n) : (m.slice a n).take k = m.slice a k := by
  obtain ⟨d, rfl⟩ := Nat.exists_eq_add_of_le h
  rw [Mem.slice_add, List.take_left' (by simp)]

theorem Mem.slice_drop (m : Mem) (a n k : Nat) (h : k ≤ n) :
    (m.slice a n).drop k = m.slice (a + k) (n - k) := by
  obtain ⟨d, rfl⟩ := Nat.exists_eq_add_of_le h
  rw [Mem.slice_add, List.drop_left' (by simp)]
  congr 1; omega

/-- A stored string reads back. -/
theorem Mem.slice_put_same (m : Mem) (a n : Nat) (bs : List Byte) (h : bs.length = n) :
    (m.put a bs).slice a n = bs := by
  subst h
  apply List.ext_getElem
  · simp
  · intro j h1 h2
    rw [Mem.getElem_slice, Mem.get_put_in _ _ _ _ (by omega) (by omega)]
    simp [List.getD_eq_getElem?_getD, h2]

/-- A string elsewhere reads as before. -/
theorem Mem.slice_put_disjoint (m : Mem) (a : Nat) (bs : List Byte) (x n : Nat)
    (h : x + n ≤ a ∨ a + bs.length ≤ x) : (m.put a bs).slice x n = m.slice x n :=
  Mem.slice_congr _ _ _ _ _ fun j hj => Mem.get_put_out _ _ _ _ (by omega)

/-! ### The canonical form -/

theorem addressesRise_cons (c : Host.Cell) (m : Mem) :
    addressesRise (c :: m) = true ↔ (∀ d ∈ m, c.1 < d.1) ∧ addressesRise m = true := by
  induction m generalizing c with
  | nil => simp [addressesRise]
  | cons d m ih =>
    simp only [addressesRise, Bool.and_eq_true, decide_eq_true_eq, List.mem_cons, forall_eq_or_imp]
    constructor
    · rintro ⟨h, hm⟩
      exact ⟨⟨h, fun e he => lt_trans h (((ih d).1 hm).1 e he)⟩, hm⟩
    · rintro ⟨⟨h, _⟩, hm⟩
      exact ⟨h, hm⟩

theorem addressesRise_append (m n : Mem) :
    addressesRise (m ++ n) = true ↔
      addressesRise m = true ∧ addressesRise n = true ∧ ∀ c ∈ m, ∀ d ∈ n, c.1 < d.1 := by
  induction m with
  | nil => simp [addressesRise]
  | cons c m ih =>
    rw [List.cons_append, addressesRise_cons, addressesRise_cons, ih]
    constructor
    · rintro ⟨h, hm, hn, hmn⟩
      refine ⟨⟨fun d hd => h d (List.mem_append_left _ hd), hm⟩, hn, ?_⟩
      intro e he d hd
      rcases List.mem_cons.1 he with rfl | he
      · exact h d (List.mem_append_right _ hd)
      · exact hmn e he d hd
    · rintro ⟨⟨h, hm⟩, hn, hmn⟩
      refine ⟨?_, hm, hn, fun e he d hd => hmn e (List.mem_cons_of_mem _ he) d hd⟩
      intro d hd
      rcases List.mem_append.1 hd with hd | hd
      · exact h d hd
      · exact hmn c List.mem_cons_self d hd

theorem addressesRise_filter (m : Mem) (p : Host.Cell → Bool) (h : addressesRise m = true) :
    addressesRise (m.filter p) = true := by
  induction m with
  | nil => rfl
  | cons c m ih =>
    rw [addressesRise_cons] at h
    rw [List.filter_cons]
    split
    · rw [addressesRise_cons]
      exact ⟨fun d hd => h.1 d (List.mem_filter.1 hd).1, ih h.2⟩
    · exact ih h.2

theorem addressesRise_cellsAt (bs : List Byte) : ∀ a, addressesRise (cellsAt a bs) = true := by
  induction bs with
  | nil => intro a; rfl
  | cons b bs ih =>
    intro a
    unfold cellsAt
    split
    · exact ih _
    · rw [addressesRise_cons]
      exact ⟨fun d hd => by have := (cellsAt_addr bs (a + 1) d hd).1; simp only; omega, ih _⟩

theorem Mem.wf_iff (m : Mem) :
    m.wf = true ↔ addressesRise m = true ∧ ∀ c ∈ m, c.2 ≠ unwritten c.1 := by
  simp [Mem.wf]

@[simp] theorem Mem.wf_nil : Mem.wf [] = true := rfl

/-- A write keeps the canonical form. -/
theorem Mem.wf_put (m : Mem) (a : Nat) (bs : List Byte) (h : m.wf = true) : (m.put a bs).wf = true := by
  rw [Mem.wf_iff] at h ⊢
  unfold Mem.put
  rw [addressesRise_append, addressesRise_append]
  refine ⟨⟨⟨addressesRise_filter _ _ h.1, addressesRise_cellsAt _ _, ?_⟩, addressesRise_filter _ _ h.1, ?_⟩,
    ?_⟩
  · intro c hc d hd
    have h1 := (List.mem_filter.1 hc).2
    have h2 := cellsAt_addr bs a d hd
    simp only [decide_eq_true_eq] at h1
    omega
  · intro c hc d hd
    have h2 := (List.mem_filter.1 hd).2
    simp only [decide_eq_true_eq] at h2
    rcases List.mem_append.1 hc with hc | hc
    · have h1 := (List.mem_filter.1 hc).2
      simp only [decide_eq_true_eq] at h1
      omega
    · have h1 := cellsAt_addr bs a c hc
      omega
  · intro c hc
    rcases List.mem_append.1 hc with hc | hc
    · rcases List.mem_append.1 hc with hc | hc
      · exact h.2 c (List.mem_filter.1 hc).1
      · exact (cellsAt_addr bs a c hc).2.2
    · exact h.2 c (List.mem_filter.1 hc).1

theorem Mem.mapped_iff (m : Mem) : m.mapped = true ↔ ∀ c ∈ m, isBuffer c.1 = true := by
  simp [Mem.mapped]

@[simp] theorem Mem.mapped_nil : Mem.mapped [] = true := rfl

/-- A write inside the mapped buffers lists mapped addresses only. -/
theorem Mem.mapped_put (m : Mem) (a : Nat) (bs : List Byte) (h : m.mapped = true)
    (hb : ∀ x, a ≤ x → x < a + bs.length → isBuffer x = true) : (m.put a bs).mapped = true := by
  rw [Mem.mapped_iff] at h ⊢
  intro c hc
  unfold Mem.put at hc
  rcases List.mem_append.1 hc with hc | hc
  · rcases List.mem_append.1 hc with hc | hc
    · exact h c (List.mem_filter.1 hc).1
    · have := cellsAt_addr bs a c hc
      exact hb _ this.1 this.2.1
  · exact h c (List.mem_filter.1 hc).1

theorem isResidual_isBuffer (a : Nat) (h : isResidual a = true) : isBuffer a = true := by
  simp [isBuffer, h]

theorem foldl_image_holds (image : List Host.Cell) : ∀ m : Mem, m.wf = true → m.mapped = true →
    (image.foldl (fun m c => if isResidual c.1 then m.put c.1 [c.2] else m) m).wf = true ∧
    (image.foldl (fun m c => if isResidual c.1 then m.put c.1 [c.2] else m) m).mapped = true := by
  induction image with
  | nil => intro m h1 h2; exact ⟨h1, h2⟩
  | cons c cs ih =>
    intro m h1 h2
    rw [List.foldl_cons]
    split
    · next hc =>
      refine ih _ (Mem.wf_put _ _ _ h1) (Mem.mapped_put _ _ _ h2 ?_)
      intro x hx hx'
      have : x = c.1 := by simp at hx'; omega
      exact this ▸ isResidual_isBuffer _ hc
    · exact ih _ h1 h2

@[simp] theorem Mem.wf_ofImage (image : List Host.Cell) : (Mem.ofImage image).wf = true :=
  (foldl_image_holds image [] rfl rfl).1

@[simp] theorem Mem.mapped_ofImage (image : List Host.Cell) : (Mem.ofImage image).mapped = true :=
  (foldl_image_holds image [] rfl rfl).2

/-- Outside the seven buffers a hard reset's memory reads as nothing written (R50: 0x00 in `SALTREG`, `DIG`,
`KLEN`). -/
theorem Mem.get_ofImage_of_not_residual (image : List Host.Cell) (x : Nat) (hx : isResidual x = false) :
    (Mem.ofImage image).get x = unwritten x := by
  unfold Mem.ofImage
  suffices h : ∀ m : Mem, m.get x = unwritten x →
      Mem.get (image.foldl (fun m c => if isResidual c.1 then m.put c.1 [c.2] else m) m) x
        = unwritten x from h [] rfl
  induction image with
  | nil => intro m h; exact h
  | cons c cs ih =>
    intro m h
    rw [List.foldl_cons]
    apply ih
    split
    · next hc =>
      rw [Mem.get_put_out, h]
      have : x ≠ c.1 := by rintro rfl; simp_all
      simp only [List.length_cons, List.length_nil]; omega
    · exact h

/-- In canonical form, memories that read alike are the same list. -/
theorem Mem.ext_of_get (m m' : Mem) (h : m.wf = true) (h' : m'.wf = true) (hg : ∀ x, m.get x = m'.get x) :
    m = m' := by
  have key : ∀ n : Mem, n.wf = true → ∀ x b, (x, b) ∈ n ↔ n.get x = b ∧ b ≠ unwritten x := by
    intro n hn x b
    rw [Mem.wf_iff] at hn
    have look : ∀ k : Mem, addressesRise k = true → ((x, b) ∈ k ↔ k.lookup x = some b) := by
      intro k
      induction k with
      | nil => simp
      | cons c k ih =>
        intro hk
        rw [addressesRise_cons] at hk
        obtain ⟨a, v⟩ := c
        rw [List.mem_cons, List.lookup_cons]
        by_cases hxa : x = a
        · subst hxa
          have hnot : (x, b) ∉ k := fun hm => absurd (hk.1 _ hm) (lt_irrefl _)
          simp [hnot, eq_comm]
        · have hf : (x == a) = false := by simpa using hxa
          simp [hf, hxa, ih hk.2]
    unfold Mem.get
    rw [look n hn.1]
    constructor
    · intro hl
      exact ⟨by simp [hl], hn.2 (x, b) ((look n hn.1).2 hl)⟩
    · rintro ⟨hl, hb⟩
      cases hlk : n.lookup x with
      | none => simp [hlk] at hl; exact absurd hl.symm hb
      | some v => simp [hlk] at hl; rw [hl]
  have hsorted : ∀ n : Mem, n.wf = true → n.Pairwise (fun c d => c.1 < d.1) := by
    intro n hn
    replace hn := ((Mem.wf_iff n).1 hn).1
    induction n with
    | nil => exact List.Pairwise.nil
    | cons c n ih =>
      rw [addressesRise_cons] at hn
      exact List.Pairwise.cons hn.1 (ih hn.2)
  refine List.Perm.eq_of_pairwise ?_ (hsorted m h) (hsorted m' h') ?_
  · intro c d _ _ h1 h2
    exact absurd h1 (not_lt.2 h2.le)
  · rw [List.perm_ext_iff_of_nodup]
    · rintro ⟨x, b⟩
      rw [key m h, key m' h', hg x]
    · exact (hsorted m h).imp (fun hlt he => absurd (he ▸ hlt) (lt_irrefl _))
    · exact (hsorted m' h').imp (fun hlt he => absurd (he ▸ hlt) (lt_irrefl _))

end Sys2Proof.Machine
end

