-- ==== Sys2Proof/Laws/Commands.lean ====
section
/-! SUPPORT. What each shared operation can do, said once: if it succeeds, then its test held and the state is
this one. -/

namespace Sys2Proof.Machine

/-! ### The command frame -/

/-- A gated command always answers a next state: the state itself while `ERR` = 1, its effect, or its error
entered on the state before it. -/
theorem runCommand_next_iff (s : State) (body : State → Result State) (t : State) :
    runCommand s body = .next t ↔
      (s.err = true ∧ t = s) ∨ (s.err = false ∧ body s = .ok t) ∨
      (s.err = false ∧ ∃ e, body s = .error e ∧ t = s.fail e) := by
  unfold runCommand
  cases h : s.err <;> cases hb : body s <;> simp [eq_comm]

theorem runCommand_of_ok (s : State) (body : State → Result State) (t : State)
    (h : s.err = false) (hb : body s = .ok t) : runCommand s body = .next t := by
  simp [runCommand, h, hb]

theorem runCommand_of_error (s : State) (body : State → Result State) (e : CmdError)
    (h : s.err = false) (hb : body s = .error e) : runCommand s body = .next (s.fail e) := by
  simp [runCommand, h, hb]

theorem runCommand_refused (s : State) (body : State → Result State) (h : s.err = true) :
    runCommand s body = .next s := by
  simp [runCommand, h]

/-- Sequencing (00_scope.md R14): the second part runs on the state the first left. -/
theorem bind_ok_iff {α β : Type} (x : Result α) (f : α → Result β) (b : β) :
    (x >>= f) = .ok b ↔ ∃ a, x = .ok a ∧ f a = .ok b := by
  cases x <;> simp [bind, Except.bind]

/-- Sequencing: the first error reached is the one reported. -/
theorem bind_error_iff {α β : Type} (x : Result α) (f : α → Result β) (e : CmdError) :
    (x >>= f) = .error e ↔ x = .error e ∨ ∃ a, x = .ok a ∧ f a = .error e := by
  cases x <;> simp [bind, Except.bind]

theorem pure_ok_iff {α : Type} (a b : α) : ((pure a : Result α) = .ok b) ↔ a = b := by
  simp [pure, Except.pure]

/-! ### Operands -/

theorem State.noBlock_iff (s : State) (i : Nat) : s.noBlock i = true ↔ s.hlen.toNat ≤ 64 * i :=
  decide_eq_true_iff

theorem keyLenLegal_iff (n : Nat) : Units.keyLenLegal n = true ↔ 1 ≤ n ∧ n ≤ 64 :=
  decide_eq_true_iff

theorem secretLegal_iff (st : Straps) :
    Units.secretLegal st = true ↔ 1 ≤ st.secretLen.toNat ∧ st.secretLen.toNat ≤ 64 :=
  decide_eq_true_iff

theorem State.checkKey_ok_iff (s : State) (k : Nat) (key : List Byte) :
    s.checkKey k = .ok key ↔ k < s.nkeys.toNat ∧ (1 ≤ s.klen k ∧ s.klen k ≤ 64) ∧ key = s.key k := by
  unfold State.checkKey
  by_cases h : s.nkeys.toNat ≤ k
  · simp [h, not_lt.2 h]
  · by_cases hl : Units.keyLenLegal (s.klen k) = true
    · simp [h, hl, (keyLenLegal_iff _).1 hl, not_le.1 h, eq_comm]
    · have := mt (keyLenLegal_iff (s.klen k)).2 hl
      simp [h, hl, this]

@[simp] theorem State.bytes_length (s : State) (a n : Nat) : (s.bytes a n).length = n := by
  simp [State.bytes]

@[simp] theorem State.key_length (s : State) (k : Nat) : (s.key k).length = s.klen k := by
  simp [State.key]

/-! ### The unit commands -/

theorem loadBlock_ok_iff (i : Nat) (s t : State) :
    loadBlock i s = .ok t ↔ 64 * i < s.hlen.toNat ∧
      t = (s.writeBytes Map.blk (s.bytes (Map.right + blockOffset i) (s.blockLen i))).setBlkLen
        (BitVec.ofNat 16 (s.blockLen i)) := by
  unfold loadBlock
  by_cases h : s.noBlock i = true
  · simp [h, not_lt.2 ((s.noBlock_iff i).1 h)]
  · have := mt (s.noBlock_iff i).2 h
    simp [h, not_le.1 this, eq_comm]

theorem padBlock_ok_iff (s t : State) :
    padBlock s = .ok t ↔ (1 ≤ s.blkLen.toNat ∧ s.blkLen.toNat ≤ 64) ∧
      t = (s.writeBytes (Map.blk + s.blkLen.toNat)
        (List.replicate (64 - s.blkLen.toNat) s.straps.pad)).setBlkLen 64 := by
  unfold padBlock
  by_cases h : s.blkLen.toNat = 0 ∨ Config.blockSize < s.blkLen.toNat
  · have : ¬ (1 ≤ s.blkLen.toNat ∧ s.blkLen.toNat ≤ 64) := by
      simp only [Config.blockSize] at h; omega
    simp only [h, if_true, this, false_and, reduceCtorEq]
  · have h' : 1 ≤ s.blkLen.toNat ∧ s.blkLen.toNat ≤ 64 := by
      simp only [Config.blockSize] at h; omega
    simp only [h, if_false, h', true_and, Except.ok.injEq, and_self]
    exact eq_comm

theorem saltBlock_ok_iff (s t : State) :
    saltBlock s = .ok t ↔ s.blkLen.toNat = 64 ∧ Units.secretLegal s.straps = true ∧
      t = s.writeBytes Map.salt (s.hash (Units.secretBytes s.straps) [] 16 s.blockReg).toList := by
  unfold saltBlock
  by_cases h : s.blkLen.toNat = 64
  · by_cases hs : Units.secretLegal s.straps = true
    · simp [h, hs, eq_comm]
    · simp [h, hs]
  · simp [h]

theorem hashBlock_ok_iff (k : Nat) (s t : State) :
    hashBlock k s = .ok t ↔ (k < s.nkeys.toNat ∧ 1 ≤ s.klen k ∧ s.klen k ≤ 64) ∧ s.blkLen.toNat = 64 ∧
      t = s.writeBytes Map.dig (s.hash (s.key k) s.saltReg 64 s.blockReg).toList := by
  unfold hashBlock
  rw [bind_ok_iff]
  constructor
  · rintro ⟨key, hk, ht⟩
    obtain ⟨h1, h2, rfl⟩ := (s.checkKey_ok_iff k key).1 hk
    by_cases hb : s.blkLen.toNat = 64
    · simp only [hb, ne_eq, not_true_eq_false, if_false, Except.ok.injEq] at ht
      exact ⟨⟨h1, h2⟩, hb, ht.symm⟩
    · simp [hb] at ht
  · rintro ⟨⟨h1, h2⟩, hb, rfl⟩
    exact ⟨_, (s.checkKey_ok_iff k _).2 ⟨h1, h2, rfl⟩, by simp [hb]⟩

theorem emitBlock_ok_iff (i : Nat) (s t : State) :
    emitBlock i s = .ok t ↔ 64 * i < s.hlen.toNat ∧
      t = (s.writeBytes (Map.fout + blockOffset i) (s.bytes Map.dig (s.blockLen i))).setFlen
        (BitVec.ofNat 16 (blockOffset i + s.blockLen i)) := by
  unfold emitBlock
  by_cases h : s.noBlock i = true
  · simp [h, not_lt.2 ((s.noBlock_iff i).1 h)]
  · have := mt (s.noBlock_iff i).2 h
    simp [h, not_le.1 this, eq_comm]

/-- One block of the round function, its five unit effects named in turn (R160). -/
theorem functionBlock_ok_iff (k i : Nat) (s t : State) :
    functionBlock k i s = .ok t ↔ ∃ s1 s2 s3 s4, loadBlock i s = .ok s1 ∧ padBlock s1 = .ok s2 ∧
      saltBlock s2 = .ok s3 ∧ hashBlock k s3 = .ok s4 ∧ emitBlock i s4 = .ok t := by
  unfold functionBlock
  simp only [bind_ok_iff]
  constructor
  · rintro ⟨s1, h1, s2, h2, s3, h3, s4, h4, h5⟩
    exact ⟨s1, s2, s3, s4, h1, h2, h3, h4, h5⟩
  · rintro ⟨s1, s2, s3, s4, h1, h2, h3, h4, h5⟩
    exact ⟨s1, h1, s2, h2, s3, h3, s4, h4, h5⟩

/-- A block of the round function changes the buffers, `FLEN` and `BLK_LEN`, and no other register (R56). -/
theorem functionBlock_shape (k i : Nat) (s t : State) (h : functionBlock k i s = .ok t) :
    ∃ m, t = { s with mem := m, flen := BitVec.ofNat 16 (blockOffset i + s.blockLen i), blkLen := 64 } := by
  obtain ⟨s1, s2, s3, s4, h1, h2, h3, h4, h5⟩ := (functionBlock_ok_iff k i s t).1 h
  obtain ⟨m1, b1, rfl⟩ : ∃ m b, s1 = { s with mem := m, blkLen := b } :=
    ⟨_, _, ((loadBlock_ok_iff _ _ _).1 h1).2⟩
  obtain ⟨m2, rfl⟩ : ∃ m, s2 = { s with mem := m, blkLen := 64 } := ⟨_, ((padBlock_ok_iff _ _).1 h2).2⟩
  obtain ⟨m3, rfl⟩ : ∃ m, s3 = { s with mem := m, blkLen := 64 } := ⟨_, ((saltBlock_ok_iff _ _).1 h3).2.2⟩
  obtain ⟨m4, rfl⟩ : ∃ m, s4 = { s with mem := m, blkLen := 64 } := ⟨_, ((hashBlock_ok_iff _ _ _).1 h4).2.2⟩
  exact ⟨_, ((emitBlock_ok_iff _ _ _).1 h5).2⟩

/-- The loop of FAPPLY changes the buffers, `FLEN` and `BLK_LEN`, and no other register (R56, R172). -/
theorem functionBlocks_shape (k : Nat) : ∀ (n i : Nat) (s t : State), functionBlocks k n i s = .ok t →
    ∃ m f b, t = { s with mem := m, flen := f, blkLen := b } := by
  intro n
  induction n with
  | zero => intro i s t h; cases h; exact ⟨s.mem, s.flen, s.blkLen, rfl⟩
  | succ n ih =>
    intro i s t h
    obtain ⟨u, hu, ht⟩ := (bind_ok_iff _ _ _).1 h
    obtain ⟨m, rfl⟩ := functionBlock_shape k i s u hu
    obtain ⟨m', f, b, rfl⟩ := ih (i + 1) _ t ht
    exact ⟨m', f, b, rfl⟩

/-! ### The round commands -/

theorem splitMessage_ok_iff (dir : Bool) (s t : State) :
    splitMessage dir s = .ok t ↔ 2 ≤ s.msgLen.toNat ∧
      t = ((s.writeBytes Map.left (s.bytes Map.msg (halfUp s.msgLen.toNat))).writeBytes Map.right
        (s.bytes (Map.msg + halfUp s.msgLen.toNat) (s.msgLen.toNat - halfUp s.msgLen.toNat) ++
          if s.paddedFlag then [s.straps.pad] else [])).startJob (halfUp s.msgLen.toNat) s.paddedFlag dir := by
  unfold splitMessage
  by_cases h : s.msgLen.toNat < Config.msgMin
  · simp only [h, if_true, reduceCtorEq, false_iff, not_and]
    intro h2; exact absurd h (not_lt.2 h2)
  · simp only [h, if_false, Except.ok.injEq]
    constructor
    · intro ht; exact ⟨not_lt.1 h, ht.symm⟩
    · rintro ⟨-, rfl⟩; rfl

theorem applyFunction_ok_iff (k : Nat) (s t : State) :
    applyFunction k s = .ok t ↔ (k < s.nkeys.toNat ∧ 1 ≤ s.klen k ∧ s.klen k ≤ 64) ∧
      1 ≤ s.hlen.toNat ∧ functionBlocks k (blockCount s.hlen.toNat) 0 s = .ok t := by
  unfold applyFunction
  rw [bind_ok_iff]
  constructor
  · rintro ⟨key, hk, ht⟩
    obtain ⟨h1, h2, -⟩ := (s.checkKey_ok_iff k key).1 hk
    by_cases h0 : s.hlen.toNat = 0
    · simp [h0] at ht
    · rw [if_neg h0] at ht
      exact ⟨⟨h1, h2⟩, by omega, ht⟩
  · rintro ⟨⟨h1, h2⟩, h0, ht⟩
    refine ⟨_, (s.checkKey_ok_iff k _).2 ⟨h1, h2, rfl⟩, ?_⟩
    rw [if_neg (by omega)]
    exact ht

theorem applyFunction_shape (k : Nat) (s t : State) (h : applyFunction k s = .ok t) :
    ∃ m f b, t = { s with mem := m, flen := f, blkLen := b } :=
  functionBlocks_shape k _ _ s t ((applyFunction_ok_iff k s t).1 h).2.2

theorem xorLeft_ok_iff (s t : State) :
    xorLeft s = .ok t ↔ s.flen.toNat = s.hlen.toNat ∧
      t = s.writeBytes Map.left (Units.xorBytes s.leftHalf s.fOutput) := by
  unfold xorLeft
  by_cases h : s.flen.toNat = s.hlen.toNat <;> simp [h, eq_comm]

theorem oneRound_ok_iff (s t : State) :
    oneRound s = .ok t ↔ s.rnd.toNat < s.nkeys.toNat ∧ ∃ u v, applyFunction s.roundSlot s = .ok u ∧
      xorLeft u = .ok v ∧ t = (swapHalves v).setRnd (BitVec.ofNat 16 (s.rnd.toNat + 1)) := by
  unfold oneRound
  by_cases h : s.nkeys.toNat ≤ s.rnd.toNat
  · simp [h, not_lt.2 h]
  · rw [if_neg h]
    simp only [bind_ok_iff, pure_ok_iff, not_le.1 h, true_and]
    constructor
    · rintro ⟨u, hu, v, hv, rfl⟩; exact ⟨u, v, hu, hv, rfl⟩
    · rintro ⟨u, v, hu, hv, rfl⟩; exact ⟨u, hu, v, hv, rfl⟩

/-- A round changes the buffers, `FLEN`, `BLK_LEN` and `RND`, and no other register (R56, R176). -/
theorem oneRound_shape (s t : State) (h : oneRound s = .ok t) :
    ∃ m f b, t = { s with mem := m, flen := f, blkLen := b,
                          rnd := BitVec.ofNat 16 (s.rnd.toNat + 1) } := by
  obtain ⟨-, u, v, hu, hv, rfl⟩ := (oneRound_ok_iff s t).1 h
  obtain ⟨m, f, b, rfl⟩ := applyFunction_shape _ s u hu
  obtain ⟨-, rfl⟩ := (xorLeft_ok_iff _ _).1 hv
  exact ⟨_, f, b, rfl⟩

theorem stripOutput_cases (oob odd : Bool) (s : State) :
    (s.strippedFlag oob odd = true ∧
      stripOutput oob odd s = (s.setOutLen (BitVec.ofNat 16 (s.outLen.toNat - 1))).setStripped true) ∨
    (s.strippedFlag oob odd = false ∧ stripOutput oob odd s = s.setStripped false) := by
  unfold stripOutput
  cases s.strippedFlag oob odd <;> simp

/-! ### The macro commands -/

/-- Rounds change the buffers, `FLEN`, `BLK_LEN` and `RND`, and no other register. -/
theorem manyRounds_shape : ∀ (n : Nat) (s t : State), manyRounds n s = .ok t →
    ∃ m f b r, t = { s with mem := m, flen := f, blkLen := b, rnd := r } := by
  intro n
  induction n with
  | zero => intro s t h; cases h; exact ⟨s.mem, s.flen, s.blkLen, s.rnd, rfl⟩
  | succ n ih =>
    intro s t h
    obtain ⟨u, hu, ht⟩ := (bind_ok_iff _ _ _).1 h
    obtain ⟨m, f, b, rfl⟩ := oneRound_shape s u hu
    obtain ⟨m', f', b', r, rfl⟩ := ih _ t ht
    exact ⟨m', f', b', r, rfl⟩

theorem runJob_ok_iff (dir : Bool) (s t : State) :
    runJob dir s = .ok t ↔ 1 ≤ s.nkeys.toNat ∧ ∃ u v, splitMessage dir s = .ok u ∧
      manyRounds s.nkeys.toNat u = .ok v ∧ t = joinHalves v := by
  unfold runJob
  by_cases h : s.nkeys.toNat = 0
  · simp [h]
  · rw [if_neg h]
    simp only [bind_ok_iff, pure_ok_iff, Nat.one_le_iff_ne_zero.2 h, true_and]
    constructor
    · rintro ⟨u, hu, v, hv, rfl⟩; exact ⟨u, v, hu, hv, rfl⟩
    · rintro ⟨u, v, hu, hv, rfl⟩; exact ⟨u, hu, v, hv, rfl⟩

theorem decodeJob_ok_iff (oob odd : Bool) (s t : State) :
    decodeJob oob odd s = .ok t ↔ ∃ u, runJob true s = .ok u ∧ t = stripOutput oob odd u := by
  unfold decodeJob
  simp only [bind_ok_iff, pure_ok_iff, eq_comm (b := t)]

end Sys2Proof.Machine
end

