-- ==== Sys2Proof/Laws/PerInstr.lean ====
section
/-! SUPPORT. Facts about every command as syntax, one lemma per constructor. -/

namespace Sys2Proof.Laws

namespace EncodeIsLegal

/-- The word of a well-formed command stands in the legal words of R93. -/
def Statement (i : Instr) : Prop := i.wellFormed = true → Machine.legalWord (encode i) = true

theorem nop : Statement .nop := fun _ => by decide
theorem clrerr : Statement .clrerr := fun _ => by decide
theorem sreset : Statement .sreset := fun _ => by decide
theorem split (dir : Bool) : Statement (.split dir) := fun _ => by cases dir <;> decide

theorem operand_bound {n : Nat} (h : argFits n = true) : n < 256 := of_decide_eq_true h

theorem cmdWord_toNat (opc n : Nat) (ho : opc < 256) (h : n < 256) :
    (cmdWord opc n).toNat = opc * 256 + n := by
  unfold cmdWord
  rw [BitVec.toNat_ofNat]
  omega

theorem fapply (k : Nat) : Statement (.fapply k) := fun h => by
  have := operand_bound h
  simp only [Machine.legalWord, encode, cmdWord_toNat 0x11 k (by omega) this, decide_eq_true_eq]
  omega

theorem xorl : Statement .xorl := fun _ => by decide
theorem swap : Statement .swap := fun _ => by decide
theorem round : Statement .round := fun _ => by decide
theorem join : Statement .join := fun _ => by decide
theorem stripH : Statement .stripH := fun _ => by decide
theorem stripE : Statement .stripE := fun _ => by decide
theorem stripO : Statement .stripO := fun _ => by decide

theorem blkload (i : Nat) : Statement (.blkload i) := fun h => by
  have := operand_bound h
  simp only [Machine.legalWord, encode, cmdWord_toNat 0x20 i (by omega) this, decide_eq_true_eq]
  omega

theorem blkpad : Statement .blkpad := fun _ => by decide
theorem salt : Statement .salt := fun _ => by decide

theorem hash (k : Nat) : Statement (.hash k) := fun h => by
  have := operand_bound h
  simp only [Machine.legalWord, encode, cmdWord_toNat 0x23 k (by omega) this, decide_eq_true_eq]
  omega

theorem emit (i : Nat) : Statement (.emit i) := fun h => by
  have := operand_bound h
  simp only [Machine.legalWord, encode, cmdWord_toNat 0x24 i (by omega) this, decide_eq_true_eq]
  omega

theorem encode : Statement .encode := fun _ => by decide
theorem decodeH : Statement .decodeH := fun _ => by decide
theorem decodeE : Statement .decodeE := fun _ => by decide
theorem decodeO : Statement .decodeO := fun _ => by decide

end EncodeIsLegal

end Sys2Proof.Laws
end

