-- ==== Sys2Proof/Tests/Slice0.lean ====
section
/-! SUPPORT. Tests on fixed values. The expected values of the decoding tests are written out from the opcode map
(30_encoding.md R93), those of the commands and the bus from the vectors of 95_test_vectors.md and
96_test_vectors_commands.md (named in each comment) and 45_keyed_hash_blake2b.md R240; the witnesses show values
that meet the hypotheses of the statements. -/

namespace Sys2Proof.Tests

set_option Elab.async false

open Sys2Proof Sys2Proof.Machine

/-! ### Helpers -/

/-- The next state, if there is one. -/
def ran : Host.Outcome State Fault Refusal → Option State
  | .next s => some s
  | .fault _ => none
  | .refused _ => none

/-- What a transaction is answered. -/
def answered (act : HostAction) (s : State) : Option BusResponse :=
  (ran (perform act s)).bind (fun t => t.answers.head?)

/-- The error record. -/
def record (s : State) : Bool × Nat × Nat := (s.err, s.errcode.toNat, s.errinfo.toNat)

/-- Storage with nothing written. -/
def blank : Mem := []

/-- The straps of the spec's configuration TOY with another Secret length: `PAD` = 0x20, Secret "S3". -/
def toyStraps (secretLen : BitVec 7) : Straps := ⟨0x20, fitBytes 64 [0x53, 0x33], secretLen⟩

/-- After reset, configuration TOY. -/
def base : State := { State.reset with kh := .toy, straps := toyStraps 2 }

/-- The set-up of VU1 to VU6: `R` = "lo ", key slot 0 = "k1". -/
def loHalf : State :=
  let m := (blank.put Map.klen [2]).put Map.keymem [0x6B, 0x31]
  { base with mem := m.put Map.right [0x6C, 0x6F, 0x20], hlen := 3, nkeys := 1 }

/-- `loHalf` with the padded block and the salt of VU2 and VU3 in place. -/
def loBlock : State :=
  let m := loHalf.mem.put Map.blk ([0x6C, 0x6F, 0x20] ++ List.replicate 61 0x20)
  { loHalf with
    mem := m.put Map.salt
      [0xB5, 0xD4, 0xF3, 0x12, 0x31, 0x50, 0x6F, 0x8E, 0xAD, 0xCC, 0xEB, 0x0A, 0x29, 0x48, 0x67, 0x86]
    blkLen := 64 }

/-- Keys "k1", "k2", "k3" and a message. -/
def keyed (msg : List Byte) : State :=
  let m := ((blank.put Map.klen [2, 2, 2]).put Map.keymem [0x6B, 0x31]).put (Map.keymem + 64) [0x6B, 0x32]
  { base with
    mem := (m.put (Map.keymem + 128) [0x6B, 0x33]).put Map.msg msg
    msgLen := BitVec.ofNat 16 msg.length, nkeys := 3 }

/-- "Hello World!" -/
def hello : List Byte := [0x48, 0x65, 0x6C, 0x6C, 0x6F, 0x20, 0x57, 0x6F, 0x72, 0x6C, 0x64, 0x21]

/-- The set-up of VR1. -/
def job : State := keyed hello

/-- The state after VR1: SPLIT 0 done. -/
def midJob : State :=
  { job with mem := (job.mem.put Map.left (hello.take 6)).put Map.right (hello.drop 6), hlen := 6 }

/-- The state after VR2 in `L` and `FOUT`: XORL comes next. -/
def combining : State :=
  { midJob with mem := midJob.mem.put Map.fout [0xEC, 0x0B, 0x2A, 0x49, 0x68, 0x87], flen := 6 }

/-- The output "Hello ". -/
def withOutput : State :=
  { base with mem := blank.put Map.out [0x48, 0x65, 0x6C, 0x6C, 0x6F, 0x20], outLen := 6 }

/-- The smallest job: one key of one byte, two message bytes, a Secret of one byte. -/
def smallJob : State :=
  { base with
    mem := (blank.put Map.klen [1]).put Map.msg [1, 2], nkeys := 1, msgLen := 2, straps := toyStraps 1 }

/-- The largest job: 32 keys of 64 bytes, 4096 message bytes, a Secret of 64 bytes. -/
def largeJob : State :=
  { base with
    mem := blank.put Map.klen (List.replicate 32 64), nkeys := 32, msgLen := 4096, straps := toyStraps 64 }

/-- An error on record. -/
def failed : State := base.fail (.indexRange 7)

/-- `base` with one host action to come. -/
def about (act : HostAction) (s : State) : State := { s with pending := [act] }

/-! ### Well-formedness: the check refuses an operand that does not fit `ARG` -/

theorem test_fapply_256_illformed : (Instr.fapply 256).wellFormed = false := by decide
theorem test_blkload_256_illformed : (Instr.blkload 256).wellFormed = false := by decide
theorem test_hash_256_illformed : (Instr.hash 256).wellFormed = false := by decide
theorem test_emit_256_illformed : (Instr.emit 256).wellFormed = false := by decide

/-! ### Decoding: words written out from R93, `OPC` in bits 15:8, `ARG` in bits 7:0 -/

theorem test_decode_system :
    decode 0b0000000000000000#16 = .ok .nop ∧ decode 0b0000000100000000#16 = .ok .clrerr ∧
    decode 0b0000001000000000#16 = .ok .sreset := by decide

theorem test_decode_split :
    decode 0b0001000000000000#16 = .ok (.split false) ∧ decode 0b0001000000000001#16 = .ok (.split true) := by
  decide

theorem test_decode_round :
    decode 0b0001000100000101#16 = .ok (.fapply 5) ∧ decode 0b0001001000000000#16 = .ok .xorl ∧
    decode 0b0001001100000000#16 = .ok .swap ∧ decode 0b0001010000000000#16 = .ok .round ∧
    decode 0b0001010100000000#16 = .ok .join := by decide

theorem test_decode_strip :
    decode 0b0001011000000000#16 = .ok .stripH ∧ decode 0b0001011000000001#16 = .ok .stripE ∧
    decode 0b0001011000000011#16 = .ok .stripO := by decide

theorem test_decode_unit :
    decode 0b0010000010000001#16 = .ok (.blkload 129) ∧ decode 0b0010000100000000#16 = .ok .blkpad ∧
    decode 0b0010001000000000#16 = .ok .salt ∧ decode 0b0010001100011111#16 = .ok (.hash 31) ∧
    decode 0b0010010011111111#16 = .ok (.emit 255) := by decide

theorem test_decode_macro :
    decode 0b0011000000000000#16 = .ok .encode ∧ decode 0b0011000100000000#16 = .ok .decodeH ∧
    decode 0b0011000100000001#16 = .ok .decodeE ∧ decode 0b0011000100000011#16 = .ok .decodeO := by decide

/-- R95: a non-zero `ARG` on XORL, `ARG` = 2 on SPLIT, STRIP and DECODE, an `OPC` of no row. -/
theorem test_decode_illegal :
    decode 0x1201#16 = .error (.illegalCommand 0x1201#16) ∧
    decode 0x1002#16 = .error (.illegalCommand 0x1002#16) ∧
    decode 0x1602#16 = .error (.illegalCommand 0x1602#16) ∧
    decode 0x3102#16 = .error (.illegalCommand 0x3102#16) ∧
    decode 0x7777#16 = .error (.illegalCommand 0x7777#16) := by decide

theorem test_table_word : decodeTableWord 16 0x23FF = some (.hash 255) ∧ decodeTableWord 16 0x0300 = none := by
  decide

/-- The placed word is what the first step after reset runs. -/
theorem test_fetch_word :
    (ran (step (State.reset.withFetchWord 16 0x1500))).map (fun t => (t.cmd, t.outLen, t.err)) =
      some (0x1500, 0, false) := by decide

/-! ### The keyed hashes -/

/-- 95_test_vectors.md part 2, the worked evaluation of KH_TOY. -/
theorem test_toy_hash :
    (toyHash [0x53, 0x33] [] 16 ([0x6C, 0x6F, 0x20] ++ List.replicate 61 0x20)).toList.take 2 =
      [0xB5, 0xD4] := by decide +kernel

/-- R240: KH_B2B("k", no salt, 16, "abc"). -/
theorem test_blake2b_abc :
    (Blake2b.hash [0x6B] [] 16 [0x61, 0x62, 0x63]).toList.take 4 = [0x68, 0x58, 0xB7, 0xB5] := by decide +kernel

/-! ### System commands -/

/-- R220: `CMD` takes the word, the error record stays. -/
theorem test_nop : (ran (issue 0x0000 { failed with cmd := 5 })).map (fun t => (t.cmd, record t)) =
    some (0, true, 10, 7) := by decide

/-- R221. -/
theorem test_clrerr : (ran (exec .clrerr { failed with hlen := 3 })).map (fun t => (record t, t.hlen)) =
    some ((false, 0, 0), 3) := by decide

/-- R222: KLEN cleared, the key bytes kept, `CMD` reads 0. -/
theorem test_sreset : (ran (issue 0x0200 job)).map (fun t => (t.cmd, t.msgLen, t.klen 1, t.bytes Map.keymem 2)) =
    some (0, 0, 0, [0x6B, 0x31]) := by decide +kernel

/-! ### Unit commands -/

/-- VU1. -/
theorem test_blkload : (ran (exec (.blkload 0) loHalf)).map (fun t => (t.bytes Map.blk 4, t.blkLen)) =
    some ([0x6C, 0x6F, 0x20, 0xEE], 3) := by decide +kernel

/-- VU11: no wrap. -/
theorem test_blkload_out_of_range : (ran (exec (.blkload 255) base)).map record = some (true, 10, 255) := by decide

/-- VU15. -/
theorem test_blkpad : (ran (exec .blkpad { base with blkLen := 63 })).map
    (fun t => (t.bytes (Map.blk + 62) 2, t.blkLen)) = some ([0xEE, 0x20], 64) := by decide +kernel

/-- VU13. -/
theorem test_blkpad_too_long : (ran (exec .blkpad { base with blkLen := 65 })).map record = some (true, 7, 65) := by
  decide

/-- VU3. -/
theorem test_salt : (ran (exec .salt loBlock)).map (fun t => t.saltReg) =
    some [0xB5, 0xD4, 0xF3, 0x12, 0x31, 0x50, 0x6F, 0x8E, 0xAD, 0xCC, 0xEB, 0x0A, 0x29, 0x48, 0x67, 0x86] := by
  decide +kernel

/-- VU18: the block size comes first. -/
theorem test_salt_order :
    (ran (exec .salt { base with blkLen := 3, straps := toyStraps 0 })).map record = some (true, 5, 3) := by decide

/-- VU4. -/
theorem test_hash : (ran (exec (.hash 0) loBlock)).map (fun t => (t.bytes Map.dig 4, t.bytes (Map.dig + 63) 1)) =
    some ([0xD1, 0xF0, 0x0F, 0x2E], [0x72]) := by decide +kernel

/-- VU22. -/
theorem test_hash_bad_key : (ran (exec (.hash 1) { base with nkeys := 2 })).map record = some (true, 3, 256) := by
  decide

/-- VU27. -/
theorem test_emit : (ran (exec (.emit 1) { base with hlen := 65 })).map
    (fun t => (t.bytes (Map.fout + 63) 3, t.flen)) = some ([0xEE, 0, 0xEE], 65) := by decide +kernel

/-- VU26. -/
theorem test_emit_out_of_range : (ran (exec (.emit 0) base)).map record = some (true, 10, 0) := by decide

/-! ### Round commands -/

/-- VR13. -/
theorem test_split_odd : (ran (exec (.split false) (keyed [0x41, 0x42, 0x43]))).map
    (fun t => (t.leftHalf, t.rightHalf, t.statusWord)) = some ([0x41, 0x42], [0x43, 0x20], 2) := by decide +kernel

/-- VR11. -/
theorem test_split_short : (ran (exec (.split true) (keyed [0x41]))).map
    (fun t => (record t, t.statusWord)) = some ((true, 2, 1), 1) := by decide +kernel

/-- VR2. -/
theorem test_fapply : (ran (exec (.fapply 0) midJob)).map (fun t => (t.fOutput, t.saltReg.take 4, t.blkLen)) =
    some ([0xEC, 0x0B, 0x2A, 0x49, 0x68, 0x87], [0x20, 0x3F, 0x5E, 0x7D], 64) := by decide +kernel

/-- VR22: the key comes before the half. -/
theorem test_fapply_order : (ran (exec (.fapply 1) { base with nkeys := 2 })).map record = some (true, 3, 256) := by
  decide

/-- VR3. -/
theorem test_xorl : (ran (exec .xorl combining)).map (fun t => (t.leftHalf, t.rightHalf)) =
    some ([0xA4, 0x6E, 0x46, 0x25, 0x07, 0xA7], hello.drop 6) := by decide +kernel

/-- VR16. -/
theorem test_xorl_mismatch : (ran (exec .xorl midJob)).map record = some (true, 8, 0) := by decide +kernel

/-- VR26: byte 2 is not exchanged. -/
theorem test_swap :
    (ran (exec .swap { base with
      mem := (blank.put Map.left [0x61, 0x62, 0x63]).put Map.right [0x78, 0x79, 0x7A], hlen := 2 })).map
      (fun t => (t.bytes Map.left 3, t.bytes Map.right 3)) =
    some ([0x78, 0x79, 0x63], [0x61, 0x62, 0x7A]) := by decide +kernel

/-- VR5. -/
theorem test_round : (ran (exec .round midJob)).map (fun t => (t.leftHalf, t.rightHalf, t.rnd)) =
    some (hello.drop 6, [0xA4, 0x6E, 0x46, 0x25, 0x07, 0xA7], 1) := by decide +kernel

/-- VR25: decode order takes the last slot. -/
theorem test_round_backward : (ran (exec .round { midJob with dir := true })).map (fun t => t.fOutput) =
    some [0xF0, 0x0F, 0x2E, 0x4D, 0x6C, 0x8B] := by decide +kernel

/-- VR27. -/
theorem test_join :
    (ran (exec .join { base with
      mem := (blank.put Map.left [0x78, 0x79]).put Map.right [0x61, 0x62], hlen := 2 })).map
      (fun t => (t.output, t.outLen)) = some ([0x61, 0x62, 0x78, 0x79], 4) := by decide +kernel

/-- VR29. -/
theorem test_stripH : (ran (exec .stripH withOutput)).map (fun t => (t.outLen, t.statusWord)) = some (5, 8) := by
  decide +kernel

/-- VR30. -/
theorem test_stripE : (ran (exec .stripE withOutput)).map (fun t => (t.outLen, t.statusWord)) = some (6, 0) := by
  decide +kernel

/-- VR33: whatever the byte is. -/
theorem test_stripO : (ran (exec .stripO { withOutput with mem := blank.put Map.out hello })).map
    (fun t => (t.outLen, t.statusWord)) = some (5, 8) := by decide +kernel

/-- VR35: nothing to strip. -/
theorem test_stripO_empty : (ran (exec .stripO base)).map (fun t => (t.outLen, t.statusWord)) = some (0, 0) := by
  decide

/-! ### Macro commands -/

/-- VMT5. -/
theorem test_encode : (ran (exec .encode (keyed (hello.take 5)))).map
    (fun t => (t.output, t.statusWord, t.hlen, t.rnd)) =
    some ([0x4A, 0x67, 0x72, 0x59, 0x3B, 0x53], 2, 3, 3) := by decide +kernel

/-- VMT6, DECODE.H. -/
theorem test_decodeH : (ran (exec .decodeH (keyed [0x4A, 0x67, 0x72, 0x59, 0x3B, 0x53]))).map
    (fun t => (t.output, t.statusWord)) = some (hello.take 5, 0xC) := by decide +kernel

/-- VMT6, DECODE.E. -/
theorem test_decodeE : (ran (exec .decodeE (keyed [0x4A, 0x67, 0x72, 0x59, 0x3B, 0x53]))).map
    (fun t => (t.output, t.statusWord)) = some (hello.take 6, 4) := by decide +kernel

/-- VMT6, DECODE.O. -/
theorem test_decodeO : (ran (exec .decodeO (keyed [0x4A, 0x67, 0x72, 0x59, 0x3B, 0x53]))).map
    (fun t => (t.output, t.statusWord)) = some (hello.take 5, 0xC) := by decide +kernel

/-- R200: an empty key list, and an error of the second round, which undoes the whole command. -/
theorem test_encode_fails :
    (ran (exec .encode { job with nkeys := 0 })).map record = some (true, 9, 0) ∧
    ran (exec .encode { job with mem := job.mem.put (Map.klen + 1) [0] }) =
      some ({ job with mem := job.mem.put (Map.klen + 1) [0] }.fail (.badKeyLength 1 0)) := by decide +kernel

/-! ### Bus -/

/-- VB1, VB2, VB3, VB4. -/
theorem test_bus_after_reset :
    answered (.read16 0x0002) base = some (.okWord 0) ∧ answered (.read16 0x0016) base = some (.okWord 0x0220) ∧
    answered (.read8 0x1000) base = some (.okByte 0xEE) ∧ answered (.read8 0x0080) base = some (.okByte 0) := by
  decide +kernel

/-- VB5, VB7. -/
theorem test_bus_little_endian :
    (ran (perform (.write16 0x1000 0xBEEF) base)).map
      (fun t => (t.busRead8 0x1000, t.busRead8 0x1001, t.busRead16 0x1001)) =
      some (.okByte 0xEF, .okByte 0xBE, .err) := by decide +kernel

/-- VB9, VB10, VB12, VB16, VB18. -/
theorem test_bus_refusals :
    answered (.read8 0x0002) base = some .err ∧ answered (.write8 0x0008 5) base = some .err ∧
    answered (.write16 0x0008 4097) base = some .err ∧ answered (.write16 0x0012 0) base = some .err ∧
    answered (.read8 0x4800) base = some .err ∧ answered (.read8 0x0090) base = some .err := by decide +kernel

/-- VB23, VB25: an illegal word is recorded, and while `ERR` = 1 a command only lands in `CMD`. -/
theorem test_bus_illegal_command :
    (ran (perform (.write16 0 0x7777) base)).map (fun t => (t.cmd, record t, t.answers)) =
      some (0x7777, (true, 12, 0x7777), [.ok]) ∧
    (ran (perform (.write16 0 0x1300) failed)).map (fun t => (t.cmd, record t, t.answers)) =
      some (0x1300, (true, 10, 7), [.ok]) := by decide +kernel

/-- R50, R291, R9: registers cleared, the byte the image names, SALTREG not from the image, the hash sampled. -/
theorem test_hard_reset :
    (ran (perform (.hardReset (toyStraps 6) .blake2b [(0x1000, 0x55), (0x0080, 0x66)]) failed)).map
      (fun t => (record t, t.cfgrWord, t.kh, t.bytes Map.msg 2, t.bytes Map.salt 1)) =
      some ((false, 0, 0), 0x0620, .blake2b, [0x55, 0xEE], [0]) := by decide +kernel

/-- R97. -/
theorem test_assembler :
    Asm.line "FAPPLY 0x1F ; k".toList = some (some (.fapply 31)) ∧
    Asm.line "DECODE 3".toList = some (some .decodeO) ∧ Asm.line "XORL 1".toList = none := by decide +kernel

/-! ### Witnesses: values that meet the hypotheses of the statements, at the edges of their ranges -/

theorem test_witness_DecodeOfEncode :
    (Instr.fapply 0).wellFormed = true ∧ (Instr.emit 255).wellFormed = true ∧
    (Instr.split true).wellFormed = true := by decide

theorem test_witness_DecodedWordEncodesBack :
    decode 0x1100#16 = .ok (.fapply 0) ∧ decode 0x3103#16 = .ok .decodeO := by decide

theorem test_witness_IllegalWordsRecordedOrRefused :
    legalWord 0x24FF = true ∧ legalWord 0x2500 = false ∧ base.err = false ∧ failed.err = true := by decide

theorem test_witness_StepRunsDecodedCommand :
    (about (.write16 0 0x1300) base).pending = .write16 0 0x1300 :: [] ∧ decode 0x1300#16 = .ok .swap := by decide

theorem test_witness_IdleStepHoldsState : base.pending = [] := by decide

theorem test_witness_StepKeepsInvariant :
    (about (.write16 0 0x1300) largeJob).Inv ∧ failed.Inv ∧
    ∃ t, step (about (.write16 0 0x1300) largeJob) = .next t := ⟨by decide +kernel, by decide +kernel, _, rfl⟩

/-- Each of the cleared buffers and each of the seven others, first and last byte. -/
theorem test_witness_HardResetFromAnyState :
    (isZeroed 0x0080 = true ∧ isZeroed 0x008F = true ∧ isZeroed 0x00FF = true ∧ isZeroed 0x011F = true) ∧
    (isResidual 0x0040 = true ∧ isResidual 0x007F = true ∧ isResidual 0x0800 = true ∧ isResidual 0x47FF = true) ∧
    [(0x47FF, (7 : Byte))].getLast? = some (0x47FF, 7) ∧
    ([(0x0040, (5 : Byte)), (0x47FF, 7)].map Prod.fst).Nodup := by decide

theorem test_witness_FailingCommandOnlyRecordsItsError :
    (about (.write16 0 0x1400) base).pending = .write16 0 0x1400 :: [] ∧
    (about (.write16 0 0x1400) base).err = false ∧
    ∃ t, step (about (.write16 0 0x1400) base) = .next t ∧ t.err = true :=
  ⟨by decide, by decide, _, rfl, by decide⟩

theorem test_witness_CommandsRefusedWhileErr :
    (about (.write16 0 0x0001) failed).pending = .write16 0 0x0001 :: [] ∧
    (about (.write16 0 0x0001) failed).err = true ∧
    (0x0001 : Word) ≠ 0x0000 ∧ (0x0001 : Word) ≠ 0x0100 ∧ (0x0001 : Word) ≠ 0x0200 := by decide

/-- Both outcomes: an error that stays, and CLRERR. -/
theorem test_witness_ErrStaysUntilAcknowledged :
    failed.err = true ∧ (∃ t, step (about (.write16 0 0x1400) failed) = .next t ∧ t.err = true) ∧
    ∃ t, step (about (.write16 0 0x0100) failed) = .next t ∧ t.err = false :=
  ⟨by decide, ⟨_, rfl, by decide⟩, _, rfl, by decide⟩

theorem test_witness_ConfigurationIsFixed :
    (∃ t, step base = .next t ∧ t.straps = base.straps ∧ t.kh = base.kh) ∧
    ∃ t, step (about (.hardReset (toyStraps 6) (.openHash 1) []) base) = .next t ∧ t.straps = toyStraps 6 ∧
      t.kh = .openHash 1 :=
  ⟨⟨_, rfl, rfl, rfl⟩, _, rfl, rfl, rfl⟩

theorem test_witness_CommandsNeverWriteKeysOrMessage :
    base.Inv ∧ (∃ t, exec .sreset base = .next t) ∧ (∃ t, exec .join base = .next t) ∧
    (inRegion Map.msg 4096 0x1FFF = true ∧ inRegion Map.keymem 2048 0x0800 = true ∧
      inRegion Map.klen 32 0x011F = true) := ⟨by decide +kernel, ⟨_, rfl⟩, ⟨_, rfl⟩, by decide⟩

theorem test_witness_ReadsHaveNoSideEffect :
    isBuffer (0x0040 : Word).toNat = true ∧ isBuffer (0x47FF : Word).toNat = true ∧
    (0x0040 : Word).toNat % 2 = 0 ∧ isBuffer (0x47FE : Word).toNat = true ∧ (0x47FE : Word).toNat % 2 = 0 := by
  decide

/-- Addresses and values on both sides of each condition. -/
theorem test_witness_WriteErrorsExactly :
    ((0x003F : Word).toNat < 0x40 ∧ ¬ (0x0040 : Word).toNat < 0x40) ∧
    (reservedAddr (0x4800 : Word).toNat = true ∧ reservedAddr (0x47FF : Word).toNat = false) ∧
    (4096 < (4097 : Word).toNat ∧ ¬ 4096 < (4096 : Word).toNat) := by decide

theorem test_witness_BusErrorChangesNothing :
    (about (.read8 0x003F) base).pending = .read8 0x003F :: [] ∧
    ∃ t, step (about (.read8 0x003F) base) = .next t ∧
      t.answers = .err :: (about (.read8 0x003F) base).answers := ⟨by decide, _, rfl, by decide⟩

/-- First and last byte of the mapped buffers, first and last even address. -/
theorem test_witness_BufferWritesStoreTheirBytes :
    isBuffer (0x0040 : Word).toNat = true ∧ isBuffer (0x47FF : Word).toNat = true ∧
    isBuffer (0x47FE : Word).toNat = true ∧ (0x0040 : Word).toNat % 2 = 0 ∧ (0x47FE : Word).toNat % 2 = 0 := by
  decide

theorem test_witness_BufferAccessIsLittleEndian :
    isBuffer (0x0040 : Word).toNat = true ∧ (0x0040 : Word).toNat % 2 = 0 ∧
    isBuffer (0x011E : Word).toNat = true ∧ (0x011E : Word).toNat % 2 = 0 := by decide

theorem test_witness_CommandWritesAreAnsweredOk :
    (about (.write16 0 0xFFFF) failed).pending = .write16 0 0xFFFF :: [] ∧
    (about (.write16 0 0x0200) base).pending = .write16 0 0x0200 :: [] := by decide

/-- The shortest message, even and odd. -/
theorem test_witness_SplitInvariant : 2 ≤ [(1 : Byte), 2].length ∧ 2 ≤ [(1 : Byte), 2, 3].length ∧
    [(1 : Byte), 2].length % 2 = 0 ∧ [(1 : Byte), 2, 3].length % 2 = 1 := by decide

/-- Equal length is an extension, one byte too long and the empty string are errors. -/
theorem test_witness_PadExtendsOrFails :
    (1 ≤ [(1 : Byte)].length ∧ [(1 : Byte)].length ≤ 1) ∧ (1 ≤ [(1 : Byte)].length ∧ [(1 : Byte)].length ≤ 2) ∧
    ([] : List Byte).length = 0 ∧ 1 < [(1 : Byte), 2].length := by decide

theorem test_witness_SaltDerivation :
    (List.replicate 63 (0 : Byte)).length ≠ 64 ∧ (List.replicate 64 (0 : Byte)).length = 64 ∧
    (toyStraps 0).secretLen.toNat < 1 ∧ 64 < (toyStraps 65).secretLen.toNat ∧
    1 ≤ (toyStraps 1).secretLen.toNat ∧ (toyStraps 64).secretLen.toNat ≤ 64 := by decide

theorem test_witness_RoundFunctionIsBlockwise :
    (1 ≤ [(1 : Byte)].length ∧ [(1 : Byte)].length ≤ 64) ∧ 1 ≤ (List.replicate 65 (0 : Byte)).length ∧
    (1 ≤ (toyStraps 1).secretLen.toNat ∧ (toyStraps 1).secretLen.toNat ≤ 64) ∧
    1 < blockCount (List.replicate 65 (0 : Byte)).length := by decide

theorem test_witness_XorLaws :
    ([(1 : Byte)].length = [(2 : Byte)].length ∧ [(2 : Byte)].length = [(3 : Byte)].length) ∧
    [(1 : Byte)].length ≠ ([] : List Byte).length := by decide

/-- The three kinds of message: odd, even ending in the pad byte, even not ending in it. -/
theorem test_witness_RoundTripOfTheCipher :
    (1 ≤ (toyStraps 1).secretLen.toNat ∧ (toyStraps 1).secretLen.toNat ≤ 64) ∧
    1 ≤ [[(1 : Byte)]].length ∧ (∀ key ∈ [[(1 : Byte)]], 1 ≤ key.length ∧ key.length ≤ 64) ∧
    2 ≤ [(1 : Byte), 2].length ∧ [(1 : Byte), 2, 3].length % 2 = 1 ∧
    [(1 : Byte), 0x20].getLast? = some (toyStraps 1).pad ∧ [(1 : Byte), 2].getLast? ≠ some (toyStraps 1).pad := by
  decide

theorem test_witness_ClrerrAcknowledges : base.errorRecord ∧ base.err = false := by decide

/-- Block 0 of a one-byte half, block 1 of a half of 65 bytes, no block 1 in one of 64. -/
theorem test_witness_BlkloadCopiesBlock :
    ({ base with hlen := 1 } : State).err = false ∧ 64 * 0 < ({ base with hlen := 1 } : State).hlen.toNat ∧
    64 * 1 < ({ base with hlen := 65 } : State).hlen.toNat ∧
    ({ base with hlen := 64 } : State).hlen.toNat ≤ 64 * 1 := by decide

theorem test_witness_BlkpadFillsBlock :
    base.err = false ∧ base.blkLen.toNat = 0 ∧ 64 < ({ base with blkLen := 65 } : State).blkLen.toNat ∧
    1 ≤ ({ base with blkLen := 1 } : State).blkLen.toNat ∧
    ({ base with blkLen := 64 } : State).blkLen.toNat ≤ 64 := by decide

theorem test_witness_SaltWritesDerivedSalt :
    base.err = false ∧ ({ base with blkLen := 65 } : State).blkLen.toNat ≠ 64 ∧ loBlock.err = false ∧
    loBlock.blkLen.toNat = 64 ∧ loBlock.secretUsable ∧
    ¬ ({ loBlock with straps := toyStraps 65 } : State).secretUsable := by decide +kernel

/-- One usable key, one slot beyond the list, key lengths 0 and 65, a short block. -/
theorem test_witness_HashWritesDigest :
    loBlock.err = false ∧ loBlock.keyUsable 0 ∧ loBlock.blkLen.toNat = 64 ∧ loBlock.nkeys.toNat ≤ 1 ∧
    loHalf.keyUsable 0 ∧ loHalf.blkLen.toNat ≠ 64 ∧
    (0 < ({ base with nkeys := 1 } : State).nkeys.toNat ∧ ({ base with nkeys := 1 } : State).klen 0 < 1) ∧
    64 < ({ base with nkeys := 1, mem := [(Map.klen, 65)] } : State).klen 0 := by decide +kernel

theorem test_witness_EmitPlacesCutDigest :
    base.err = false ∧ 64 * 0 < ({ base with hlen := 1 } : State).hlen.toNat ∧
    ({ base with hlen := 64 } : State).hlen.toNat ≤ 64 * 1 := by decide

/-- Lengths 1, 2, 3 and 4096. -/
theorem test_witness_SplitLoadsHalves :
    ((keyed [1]).Inv ∧ (keyed [1]).err = false ∧ (keyed [1]).msgLen.toNat < 2) ∧
    (smallJob.Inv ∧ smallJob.err = false ∧ smallJob.msgLen.toNat = 2) ∧
    ((keyed [1, 2, 3]).Inv ∧ (keyed [1, 2, 3]).err = false ∧ (keyed [1, 2, 3]).msgLen.toNat % 2 = 1) ∧
    (largeJob.Inv ∧ largeJob.err = false ∧ largeJob.msgLen.toNat = 4096) :=
  ⟨by decide +kernel, by decide +kernel, by decide +kernel, by decide +kernel⟩

theorem test_witness_FapplyComputesRoundFunction :
    midJob.Inv ∧ midJob.err = false ∧ midJob.keyUsable 2 ∧ 1 ≤ midJob.hlen.toNat ∧ midJob.secretUsable := by
  decide +kernel

theorem test_witness_FapplyErrorsInOrder :
    midJob.err = false ∧ midJob.nkeys.toNat ≤ 3 ∧
    (0 < ({ base with nkeys := 1 } : State).nkeys.toNat ∧ ({ base with nkeys := 1 } : State).klen 0 < 1) ∧
    (job.keyUsable 0 ∧ job.hlen.toNat = 0) ∧
    (midJob.keyUsable 0 ∧ 1 ≤ midJob.hlen.toNat ∧
      ¬ ({ midJob with straps := toyStraps 0 } : State).secretUsable) := by decide +kernel

theorem test_witness_XorlCombinesLeftWithFout :
    base.err = false ∧ base.flen = base.hlen ∧ combining.err = false ∧ combining.flen = combining.hlen ∧
    midJob.flen ≠ midJob.hlen := by decide +kernel

theorem test_witness_SwapExchangesHalves : midJob.Inv ∧ midJob.err = false := by decide +kernel

/-- First and last round, in both directions. -/
theorem test_witness_RoundIsOneFeistelRound :
    midJob.Inv ∧ midJob.err = false ∧ midJob.rnd.toNat < midJob.nkeys.toNat ∧
    ({ midJob with rnd := 2, dir := true } : State).Inv ∧
    (1 ≤ midJob.klen 0 ∧ midJob.klen 0 ≤ 64) ∧ (1 ≤ midJob.klen 2 ∧ midJob.klen 2 ≤ 64) ∧
    1 ≤ midJob.hlen.toNat ∧ midJob.secretUsable := by decide +kernel

theorem test_witness_RoundErrorsInOrder :
    base.err = false ∧ base.nkeys.toNat ≤ base.rnd.toNat ∧
    (0 < ({ base with nkeys := 1 } : State).nkeys.toNat ∧ ({ base with nkeys := 1 } : State).klen 0 < 1) ∧
    (job.rnd.toNat < job.nkeys.toNat ∧ 1 ≤ job.klen 0 ∧ job.klen 0 ≤ 64 ∧ job.hlen.toNat = 0) ∧
    (1 ≤ midJob.klen 0 ∧ midJob.klen 0 ≤ 64 ∧ 1 ≤ midJob.hlen.toNat ∧
      ¬ ({ midJob with straps := toyStraps 65 } : State).secretUsable) := by decide +kernel

theorem test_witness_JoinPutsRightHalfFirst :
    midJob.Inv ∧ midJob.err = false ∧ ({ base with hlen := 2048 } : State).Inv := by decide +kernel

/-- Something to strip for STRIP.H and STRIP.O, nothing for STRIP.E, and an empty output. -/
theorem test_witness_StripShortensOutput :
    withOutput.err = false ∧ (.stripH, false, false) ∈ stripForms ∧ (.stripE, true, false) ∈ stripForms ∧
    (.stripO, true, true) ∈ stripForms ∧ 1 ≤ withOutput.outLen.toNat ∧
    withOutput.mem.get (Map.out + (withOutput.outLen.toNat - 1)) = withOutput.straps.pad ∧
    ¬ 1 ≤ base.outLen.toNat := by decide +kernel

theorem test_witness_StripComputesPaddingTracker :
    withOutput.err = false ∧ (.stripO, true, true) ∈ stripForms := by decide +kernel

theorem test_witness_EncodeComputesTheCipher :
    (smallJob.Inv ∧ smallJob.jobReady) ∧ (job.Inv ∧ job.jobReady) ∧ (largeJob.Inv ∧ largeJob.jobReady) :=
  ⟨by decide +kernel, by decide +kernel, by decide +kernel⟩

/-- The four ways to fail: no keys, a short message, a bad key, a bad Secret. -/
theorem test_witness_EncodeFailsAsTheCipher :
    (base.Inv ∧ base.err = false ∧
      Units.encode base.hash base.straps base.message base.keyList = .error .emptyKeyList) ∧
    ((keyed [1]).Inv ∧ (keyed [1]).err = false ∧
      Units.encode (keyed [1]).hash (keyed [1]).straps (keyed [1]).message (keyed [1]).keyList =
        .error (.tooShort 1)) ∧
    Units.encode smallJob.hash (toyStraps 1) [1, 2] [[1], []] = .error (.badKeyLength 1 0) ∧
    Units.encode smallJob.hash (toyStraps 65) [1, 2] [[1]] = .error (.badSecretLength 65) := by decide +kernel

theorem test_witness_DecodeComputesTheInverse :
    smallJob.Inv ∧ smallJob.jobReady ∧ (.decodeH, false, false) ∈ decodeForms ∧
    (.decodeE, true, false) ∈ decodeForms ∧ (.decodeO, true, true) ∈ decodeForms := by decide +kernel

theorem test_witness_DecodeFailsAsTheInverse :
    (keyed [1]).Inv ∧ (keyed [1]).err = false ∧ (.decodeO, true, true) ∈ decodeForms ∧
    Units.decode (keyed [1]).hash (keyed [1]).straps (keyed [1]).message (keyed [1]).keyList true true =
      .error (.tooShort 1) := by decide +kernel

theorem test_witness_FblocksEqualFapply :
    loHalf.Inv ∧ loHalf.err = false ∧ loHalf.keyUsable 0 ∧ 1 ≤ loHalf.hlen.toNat ∧ loHalf.secretUsable := by
  decide +kernel

/-- ROUND succeeds, and ROUND fails. -/
theorem test_witness_RoundkEqualsRound :
    (midJob.Inv ∧ midJob.err = false ∧ midJob.rnd.toNat < midJob.nkeys.toNat) ∧
    (job.Inv ∧ job.err = false ∧ job.rnd.toNat < job.nkeys.toNat) := by decide +kernel

theorem test_witness_EncEqualsEncode :
    (job.Inv ∧ job.err = false ∧ 1 ≤ job.nkeys.toNat) ∧
    (({ job with nkeys := 0 } : State).Inv ∧ ({ job with nkeys := 0 } : State).nkeys.toNat = 0 ∧
      2 ≤ ({ job with nkeys := 0 } : State).msgLen.toNat) := by decide +kernel

theorem test_witness_DecEqualsDecode : smallJob.Inv ∧ smallJob.err = false ∧ 1 ≤ smallJob.nkeys.toNat := by
  decide +kernel

theorem test_witness_EngineRoundTrip : job.Inv ∧ job.jobReady := by decide +kernel

/-- The memory of the reset state is in canonical form. -/
theorem test_reset_memory_wf : Sys2Proof.core.reset.mem.wf = true := by decide

end Sys2Proof.Tests
end

namespace Sys2Proof.Machine

/-! ### What no command reaches

The obligation O16 (00_scope.md R9, 10_state.md R49): the configuration is sampled by a hard reset and by nothing
else. Said for a command's effect first, then for every command, every bus write and every host action. -/

/-- What lies outside the reach of a command and of a bus write: the configuration (R9, R49), and the model's own
lists of host actions and of responses (log 1). -/
structure State.FrameKept (s t : State) : Prop where
  straps : t.straps = s.straps
  kh : t.kh = s.kh
  pending : t.pending = s.pending
  answers : t.answers = s.answers

@[refl] theorem State.FrameKept.refl (s : State) : s.FrameKept s := ⟨rfl, rfl, rfl, rfl⟩

theorem State.FrameKept.trans {s t u : State} (hst : s.FrameKept t) (htu : t.FrameKept u) : s.FrameKept u :=
  ⟨htu.straps.trans hst.straps, htu.kh.trans hst.kh, htu.pending.trans hst.pending, htu.answers.trans hst.answers⟩

theorem State.writeBytes_frameKept (s : State) (a : Nat) (bs : List Byte) : s.FrameKept (s.writeBytes a bs) :=
  ⟨rfl, rfl, rfl, rfl⟩

theorem State.setCmd_frameKept (s : State) (w : Word) : s.FrameKept (s.setCmd w) := ⟨rfl, rfl, rfl, rfl⟩

theorem State.fail_frameKept (s : State) (e : CmdError) : s.FrameKept (s.fail e) := ⟨rfl, rfl, rfl, rfl⟩

/-- The effect of a command leaves alone, where it succeeds, all that lies outside a command's reach. -/
def EffectKeepsFrame (body : State → Result State) : Prop := ∀ s t, body s = .ok t → s.FrameKept t

/-! #### The effects of the gated commands -/

theorem loadBlock_keepsFrame (i : Nat) : EffectKeepsFrame (loadBlock i) := by
  intro s t h
  obtain ⟨-, rfl⟩ := (loadBlock_ok_iff i s t).1 h
  exact ⟨rfl, rfl, rfl, rfl⟩

theorem padBlock_keepsFrame : EffectKeepsFrame padBlock := by
  intro s t h
  obtain ⟨-, rfl⟩ := (padBlock_ok_iff s t).1 h
  exact ⟨rfl, rfl, rfl, rfl⟩

theorem saltBlock_keepsFrame : EffectKeepsFrame saltBlock := by
  intro s t h
  obtain ⟨-, -, rfl⟩ := (saltBlock_ok_iff s t).1 h
  exact s.writeBytes_frameKept _ _

theorem hashBlock_keepsFrame (k : Nat) : EffectKeepsFrame (hashBlock k) := by
  intro s t h
  obtain ⟨-, -, rfl⟩ := (hashBlock_ok_iff k s t).1 h
  exact s.writeBytes_frameKept _ _

theorem emitBlock_keepsFrame (i : Nat) : EffectKeepsFrame (emitBlock i) := by
  intro s t h
  obtain ⟨-, rfl⟩ := (emitBlock_ok_iff i s t).1 h
  exact ⟨rfl, rfl, rfl, rfl⟩

theorem splitMessage_keepsFrame (dir : Bool) : EffectKeepsFrame (splitMessage dir) := by
  intro s t h
  obtain ⟨-, rfl⟩ := (splitMessage_ok_iff dir s t).1 h
  exact ⟨rfl, rfl, rfl, rfl⟩

theorem applyFunction_keepsFrame (k : Nat) : EffectKeepsFrame (applyFunction k) := by
  intro s t h
  obtain ⟨m, f, b, rfl⟩ := applyFunction_shape k s t h
  exact ⟨rfl, rfl, rfl, rfl⟩

theorem xorLeft_keepsFrame : EffectKeepsFrame xorLeft := by
  intro s t h
  obtain ⟨-, rfl⟩ := (xorLeft_ok_iff s t).1 h
  exact s.writeBytes_frameKept _ _

theorem swapHalves_frameKept (s : State) : s.FrameKept (swapHalves s) := ⟨rfl, rfl, rfl, rfl⟩

theorem oneRound_keepsFrame : EffectKeepsFrame oneRound := by
  intro s t h
  obtain ⟨m, f, b, rfl⟩ := oneRound_shape s t h
  exact ⟨rfl, rfl, rfl, rfl⟩

theorem joinHalves_frameKept (s : State) : s.FrameKept (joinHalves s) := ⟨rfl, rfl, rfl, rfl⟩

theorem stripOutput_frameKept (oob odd : Bool) (s : State) : s.FrameKept (stripOutput oob odd s) := by
  obtain ⟨-, h⟩ | ⟨-, h⟩ := stripOutput_cases oob odd s
  · rw [h]; exact ⟨rfl, rfl, rfl, rfl⟩
  · rw [h]; exact ⟨rfl, rfl, rfl, rfl⟩

theorem manyRounds_keepsFrame (n : Nat) : EffectKeepsFrame (manyRounds n) := by
  intro s t h
  obtain ⟨m, f, b, r, rfl⟩ := manyRounds_shape n s t h
  exact ⟨rfl, rfl, rfl, rfl⟩

theorem runJob_keepsFrame (dir : Bool) : EffectKeepsFrame (runJob dir) := by
  intro s t h
  obtain ⟨-, u, v, hsplit, hrounds, rfl⟩ := (runJob_ok_iff dir s t).1 h
  exact ((splitMessage_keepsFrame dir s u hsplit).trans (manyRounds_keepsFrame _ u v hrounds)).trans
    (joinHalves_frameKept v)

theorem decodeJob_keepsFrame (oob odd : Bool) : EffectKeepsFrame (decodeJob oob odd) := by
  intro s t h
  obtain ⟨u, hjob, rfl⟩ := (decodeJob_ok_iff oob odd s t).1 h
  exact (runJob_keepsFrame true s u hjob).trans (stripOutput_frameKept oob odd u)

/-- An effect that cannot fail keeps the frame when its state function does. -/
theorem effectKeepsFrame_ok {f : State → State} (hf : ∀ s : State, s.FrameKept (f s)) :
    EffectKeepsFrame (fun s => .ok (f s)) := by
  intro s t h
  cases h
  exact hf s

/-! #### Commands -/

/-- A gated command is refused, takes its effect, or enters its error: in each case it keeps what its effect
keeps (R270, R271). -/
theorem runCommand_frameKept {body : State → Result State} (hbody : EffectKeepsFrame body) {s t : State}
    (h : runCommand s body = .next t) : s.FrameKept t := by
  obtain ⟨-, rfl⟩ | ⟨-, hok⟩ | ⟨-, e, -, rfl⟩ := (runCommand_next_iff s body t).1 h
  · rfl
  · exact hbody s t hok
  · exact s.fail_frameKept e

/-- No command reaches the configuration, the host's plans or the responses given. -/
theorem exec_frameKept (i : Instr) (s t : State) (h : exec i s = .next t) : s.FrameKept t := by
  cases i with
  | nop => cases h; rfl
  | clrerr => cases h; exact ⟨rfl, rfl, rfl, rfl⟩
  | sreset => cases h; exact ⟨rfl, rfl, rfl, rfl⟩
  | split dir => exact runCommand_frameKept (splitMessage_keepsFrame dir) h
  | fapply k => exact runCommand_frameKept (applyFunction_keepsFrame k) h
  | xorl => exact runCommand_frameKept xorLeft_keepsFrame h
  | swap => exact runCommand_frameKept (effectKeepsFrame_ok swapHalves_frameKept) h
  | round => exact runCommand_frameKept oneRound_keepsFrame h
  | join => exact runCommand_frameKept (effectKeepsFrame_ok joinHalves_frameKept) h
  | stripH => exact runCommand_frameKept (effectKeepsFrame_ok (stripOutput_frameKept false false)) h
  | stripE => exact runCommand_frameKept (effectKeepsFrame_ok (stripOutput_frameKept true false)) h
  | stripO => exact runCommand_frameKept (effectKeepsFrame_ok (stripOutput_frameKept true true)) h
  | blkload b => exact runCommand_frameKept (loadBlock_keepsFrame b) h
  | blkpad => exact runCommand_frameKept padBlock_keepsFrame h
  | salt => exact runCommand_frameKept saltBlock_keepsFrame h
  | hash k => exact runCommand_frameKept (hashBlock_keepsFrame k) h
  | emit b => exact runCommand_frameKept (emitBlock_keepsFrame b) h
  | encode => exact runCommand_frameKept (runJob_keepsFrame false) h
  | decodeH => exact runCommand_frameKept (decodeJob_keepsFrame false false) h
  | decodeE => exact runCommand_frameKept (decodeJob_keepsFrame true false) h
  | decodeO => exact runCommand_frameKept (decodeJob_keepsFrame true true) h

/-- A word that is no legal encoding has no effect to take: it is refused or recorded (R95, R271). -/
theorem illegalWord_frameKept (w : Word) (s t : State) (h : illegalWord w s = .next t) : s.FrameKept t :=
  runCommand_frameKept (body := fun _ => .error (.illegalCommand w)) (fun _ _ hok => nomatch hok) h

theorem issue_frameKept (w : Word) (s t : State) (h : issue w s = .next t) : s.FrameKept t := by
  refine (s.setCmd_frameKept w).trans ?_
  cases hd : decode w with
  | ok i => exact exec_frameKept i _ t (issue_of_decode w s i hd ▸ h)
  | error e => exact illegalWord_frameKept w _ t (issue_of_illegal w s e hd ▸ h)

/-! #### Bus writes -/

/-- A range-checked write sets one length register or is refused; the other registers refuse every write
(R69, R70). -/
theorem State.ctrlWrite_frameKept (s t : State) (r : CtrlReg) (v : Word) (h : s.ctrlWrite r v = some t) :
    s.FrameKept t := by
  cases r with
  | msgLen | outLen | hlen | flen | nkeys | blkLen =>
    obtain ⟨-, rfl⟩ := (checked_some_iff v _ _ t).1 h
    exact ⟨rfl, rfl, rfl, rfl⟩
  | cmd | status | errcode | errinfo | rnd | cfgr => cases h

theorem State.busWrite8_frameKept (s t : State) (a : Word) (v : Byte) (h : s.busWrite8 a v = some t) :
    s.FrameKept t := by
  obtain ⟨-, rfl⟩ := (s.busWrite8_some_iff t a v).1 h
  exact s.writeBytes_frameKept _ _

theorem State.busWrite16_frameKept (s t : State) (a v : Word) (h : s.busWrite16 a v = some t) :
    s.FrameKept t := by
  obtain ⟨-, ⟨-, r, -, hreg⟩ | ⟨-, -, rfl⟩⟩ := (s.busWrite16_some_iff t a v).1 h
  · exact s.ctrlWrite_frameKept t r v hreg
  · exact s.writeBytes_frameKept _ _

/-! #### Host actions and the step -/

/-- The straps and the keyed hash stand as they did: what the machine is configured with (R49). -/
def State.ConfigKept (s t : State) : Prop := t.straps = s.straps ∧ t.kh = s.kh

theorem State.FrameKept.configKept {s t : State} (h : s.FrameKept t) : s.ConfigKept t := ⟨h.straps, h.kh⟩

/-- Answering a write adds a response and no change of the configuration to what the write did. -/
theorem State.answerWrite_configKept (s : State) (r : Option State) (hr : ∀ t, r = some t → s.FrameKept t) :
    s.ConfigKept (s.answerWrite r) := by
  obtain ⟨t, ht, heq⟩ | ⟨-, heq⟩ := s.answerWrite_cases r
  · rw [heq]; exact (hr t ht).configKept
  · rw [heq]; exact ⟨rfl, rfl⟩

/-- A host action keeps the configuration or is the hard reset that sampled the new one (R9, R49). -/
theorem perform_configKept_or_hardReset (act : HostAction) (s t : State) (h : perform act s = .next t) :
    s.ConfigKept t ∨ ∃ image, act = .hardReset t.straps t.kh image := by
  cases act with
  | read8 a => cases h; exact .inl ⟨rfl, rfl⟩
  | read16 a => cases h; exact .inl ⟨rfl, rfl⟩
  | write8 a v =>
    cases h
    exact .inl (s.answerWrite_configKept _ fun u hu => s.busWrite8_frameKept u a v hu)
  | write16 a v =>
    by_cases ha : a = 0
    · subst ha
      rw [perform_command] at h
      exact .inl (issue_frameKept v (s.answer .ok) t h).configKept
    · rw [perform, if_neg ha] at h
      cases h
      exact .inl (s.answerWrite_configKept _ fun u hu => s.busWrite16_frameKept u a v hu)
  | hardReset straps kh image => cases h; exact .inr ⟨image, rfl⟩

/-- Settles O16, by the pending list: an idle step changes nothing, and any other step is one host action. -/
theorem configurationIsFixed : Obligations.ConfigurationIsFixed := by
  intro s t h
  cases hp : s.pending with
  | nil =>
    rw [step_idle s hp] at h
    cases h
    exact .inl ⟨rfl, rfl⟩
  | cons act rest =>
    rw [step_action s act rest hp] at h
    obtain hkept | ⟨image, rfl⟩ := perform_configKept_or_hardReset act _ t h
    · exact .inl hkept
    · exact .inr ⟨image, rest, rfl⟩

end Sys2Proof.Machine

namespace Sys2Proof.Machine

/-! ### Hard reset

The obligations O9, O10 and O11 (10_state.md R50, 70_reset_and_hazards.md R290, R291): what the storage reads as after
a reset, and the reset state itself. -/

theorem inRegion_iff (base size a : Nat) : inRegion base size a = true ↔ base ≤ a ∧ a < base + size :=
  decide_eq_true_iff

/-- The buffers a reset clears, as addresses (R66). -/
theorem isZeroed_iff (a : Nat) :
    isZeroed a = true ↔ (0x80 ≤ a ∧ a < 0x90) ∨ (0xC0 ≤ a ∧ a < 0x120) := by
  simp only [isZeroed, Bool.or_eq_true, inRegion_iff, Map.salt, Map.dig, Map.klen]
  omega

/-- The seven other buffers, as addresses (R66). -/
theorem isResidual_iff (a : Nat) :
    isResidual a = true ↔ (0x40 ≤ a ∧ a < 0x80) ∨ (0x800 ≤ a ∧ a < 0x4800) := by
  simp only [isResidual, Bool.or_eq_true, inRegion_iff, Map.blk, Map.keymem, Map.msg, Map.out, Map.left, Map.right,
    Map.fout]
  omega

theorem isBuffer_iff (a : Nat) :
    isBuffer a = true ↔ (0x40 ≤ a ∧ a < 0x90) ∨ (0xC0 ≤ a ∧ a < 0x120) ∨ (0x800 ≤ a ∧ a < 0x4800) := by
  rw [isBuffer, Bool.or_eq_true, isZeroed_iff, isResidual_iff]
  omega

theorem isResidual_eq_false_of_isZeroed {a : Nat} (h : isZeroed a = true) : isResidual a = false := by
  rw [isZeroed_iff] at h
  rw [Bool.eq_false_iff, Ne, isResidual_iff]
  omega

theorem unwritten_of_isZeroed {a : Nat} (h : isZeroed a = true) : unwritten a = 0 := by
  simp [unwritten, h]

/-! #### The image of a hard reset -/

/-- The cells of an image count in list order: the last one is stored on top of the others. -/
theorem Mem.ofImage_concat (image : List Host.Cell) (c : Host.Cell) :
    Mem.ofImage (image ++ [c]) =
      if isResidual c.1 then (Mem.ofImage image).put c.1 [c.2] else Mem.ofImage image := by
  simp [Mem.ofImage]

theorem Mem.get_ofImage_concat_same (image : List Host.Cell) (c : Host.Cell) (hc : isResidual c.1 = true) :
    (Mem.ofImage (image ++ [c])).get c.1 = c.2 := by
  rw [Mem.ofImage_concat, if_pos hc, Mem.get_put_in _ _ _ _ le_rfl (by simp)]
  simp

theorem Mem.get_ofImage_concat_of_ne (image : List Host.Cell) (c : Host.Cell) {a : Nat} (ha : a ≠ c.1) :
    (Mem.ofImage (image ++ [c])).get a = (Mem.ofImage image).get a := by
  rw [Mem.ofImage_concat]
  split
  · exact Mem.get_put_out _ _ _ _ (by simp only [List.length_singleton]; omega)
  · rfl

theorem Mem.get_ofImage_of_isZeroed (image : List Host.Cell) {a : Nat} (ha : isZeroed a = true) :
    (Mem.ofImage image).get a = 0 := by
  rw [Mem.get_ofImage_of_not_residual image a (isResidual_eq_false_of_isZeroed ha), unwritten_of_isZeroed ha]

/-- Where no address repeats, the storage reads as all cells of the image at once: induction on the image from its
end, where the cell stored last stands. -/
theorem Mem.get_ofImage_of_nodup (image : List Host.Cell) (hnodup : (image.map Prod.fst).Nodup) :
    ∀ c ∈ image, isResidual c.1 = true → (Mem.ofImage image).get c.1 = c.2 := by
  induction image using List.reverseRecOn with
  | nil => simp
  | append_singleton image d ih =>
    intro c hc hres
    rw [List.map_append, List.nodup_append] at hnodup
    obtain ⟨hnodup, -, hdisjoint⟩ := hnodup
    obtain hc | hc := List.mem_append.1 hc
    · have hne : c.1 ≠ d.1 := hdisjoint c.1 (List.mem_map_of_mem hc) d.1 (by simp)
      rw [Mem.get_ofImage_concat_of_ne image d hne]
      exact ih hnodup c hc hres
    · obtain rfl := List.mem_singleton.1 hc
      exact Mem.get_ofImage_concat_same image c hres

/-- Settles O11: the storage a hard reset leaves is that of its image. -/
theorem hardResetFromAnyState : Obligations.HardResetFromAnyState := by
  intro s straps kh image
  refine ⟨Mem.ofImage image, rfl, fun a ha => Mem.get_ofImage_of_isZeroed image ha,
    Mem.get_ofImage_of_nodup image, ?_⟩
  intro a b ha hlast
  obtain ⟨front, rfl⟩ := List.getLast?_eq_some_iff.1 hlast
  exact Mem.get_ofImage_concat_same front (a, b) ha

/-! #### The reset state -/

/-- Settles O9: every register is 0, nothing is recorded and nothing is stored. -/
theorem resetSatisfiesInvariant : Obligations.ResetSatisfiesInvariant := by
  have hranges : State.reset.inRange := by simp [State.reset]
  have hrecord : State.reset.errorRecord := ⟨fun _ => ⟨rfl, rfl⟩, fun herr => nomatch herr⟩
  exact ⟨hranges, hrecord, Mem.wf_nil, Mem.mapped_nil⟩

/-- A string of cleared bytes, nothing written. -/
theorem Mem.slice_nil_of_isZeroed (a n : Nat) (h : ∀ j < n, isZeroed (a + j) = true) :
    Mem.slice [] a n = List.replicate n 0 := by
  apply List.ext_getElem
  · simp
  · intro j hj _
    rw [Mem.slice_length] at hj
    simp [unwritten_of_isZeroed (h j hj)]

/-- Settles O10: the registers and flags by evaluation, the cleared buffers by what nothing written reads as. -/
theorem resetClearsRegisters : Obligations.ResetClearsRegisters := by
  refine ⟨rfl, rfl, rfl, rfl, rfl, rfl, rfl, rfl, rfl, rfl, rfl, fun k hk => ?klen, ?saltReg, ?digest⟩
  case klen =>
    have hbyte : State.reset.byteAt (Map.klen + k) = 0 :=
      unwritten_of_isZeroed ((isZeroed_iff _).2 (by simp only [Map.klen]; omega))
    rw [State.klen, hbyte]
    rfl
  case saltReg => exact Mem.slice_nil_of_isZeroed _ _ fun j hj => (isZeroed_iff _).2 (by simp only [Map.salt]; omega)
  case digest => exact Mem.slice_nil_of_isZeroed _ _ fun j hj => (isZeroed_iff _).2 (by simp only [Map.dig]; omega)

/-! ### Views of the flags and the straps

The obligations O26 and O27 (10_state.md R33, R44). -/

/-- The flags as the binary digits of `STATUS`, the lowest bit first (R33). -/
theorem State.statusWord_eq_bits (s : State) :
    s.statusWord =
      BitVec.ofNat 16 (Nat.bit s.err (Nat.bit s.padded (Nat.bit s.dir (Nat.bit s.stripped 0)))) := by
  simp only [State.statusWord, Nat.bit_val]
  congr 1
  ring

theorem State.statusWord_getLsbD (s : State) (n : Nat) :
    s.statusWord.getLsbD n =
      if n = 0 then s.err else if n = 1 then s.padded else if n = 2 then s.dir
      else if n = 3 then s.stripped else false := by
  rw [State.statusWord_eq_bits, BitVec.getLsbD_ofNat]
  match n with
  | 0 => simp
  | 1 => simp [Nat.testBit_bit_succ]
  | 2 => simp [Nat.testBit_bit_succ]
  | 3 => simp [Nat.testBit_bit_succ]
  | n + 4 => simp [Nat.testBit_bit_succ]

/-- `CFGR` as a number: two fields that do not overlap, and 15 bits in all (R44). -/
theorem State.cfgrWord_toNat (s : State) :
    s.cfgrWord.toNat = s.straps.pad.toNat + 256 * s.straps.secretLen.toNat := by
  have hpad := s.straps.pad.isLt
  have hlen := s.straps.secretLen.isLt
  rw [State.cfgrWord, BitVec.toNat_ofNat]
  omega

theorem State.cfgrWord_pad (s : State) : s.cfgrWord.extractLsb' 0 8 = s.straps.pad := by
  have hpad := s.straps.pad.isLt
  apply BitVec.eq_of_toNat_eq
  rw [BitVec.extractLsb'_toNat, s.cfgrWord_toNat, Nat.shiftRight_zero]
  omega

theorem State.cfgrWord_secretLen (s : State) : s.cfgrWord.extractLsb' 8 7 = s.straps.secretLen := by
  have hpad := s.straps.pad.isLt
  have hlen := s.straps.secretLen.isLt
  apply BitVec.eq_of_toNat_eq
  rw [BitVec.extractLsb'_toNat, s.cfgrWord_toNat, Nat.shiftRight_eq_div_pow]
  omega

theorem State.cfgrWord_bit15 (s : State) : s.cfgrWord.getLsbD 15 = false := by
  have hpad := s.straps.pad.isLt
  have hlen := s.straps.secretLen.isLt
  refine Nat.testBit_lt_two_pow ?_
  rw [s.cfgrWord_toNat]
  omega

/-- Settles O26: the two registers are read as their views, and the views bit by bit. -/
theorem statusAndCfgrViews : Obligations.StatusAndCfgrViews := fun s =>
  ⟨rfl, rfl, s.statusWord_getLsbD, s.cfgrWord_pad, s.cfgrWord_secretLen, s.cfgrWord_bit15⟩

/-! #### What a read depends on -/

/-- A 1-byte read looks at the storage alone. -/
theorem State.busRead8_congr {s t : State} (hmem : t.mem = s.mem) (a : Word) : t.busRead8 a = s.busRead8 a := by
  simp only [State.busRead8, State.byteAt, hmem]

/-- A 2-byte read looks at the storage and at what the control registers read as. -/
theorem State.busRead16_congr {s t : State} (hmem : t.mem = s.mem) (hreg : ∀ r, t.ctrlRead r = s.ctrlRead r)
    (a : Word) : t.busRead16 a = s.busRead16 a := by
  simp only [State.busRead16, State.byteAt, hmem, hreg]

/-- No control register shows the Secret's bytes; `CFGR` alone reads the straps, `PAD` and `SECRET_LEN` (R44). -/
theorem State.ctrlRead_withSecret (s : State) (other : Vector Byte 64) (r : CtrlReg) :
    State.ctrlRead { s with straps := { s.straps with secret := other } } r = s.ctrlRead r := by
  cases r <;> rfl

/-- Settles O27: the storage is not the Secret's, and no control register shows its bytes. -/
theorem secretBytesAreUnreadable : Obligations.SecretBytesAreUnreadable := fun s other a =>
  ⟨State.busRead8_congr rfl a, State.busRead16_congr rfl (s.ctrlRead_withSecret other) a⟩

/-! ### What a command may write

The obligations O8 and O17 (10_state.md R21, R45, R46, R47). A gated command's effect stores into the seven work
buffers alone, so the storage stays canonical and mapped and the host's inputs stand; it keeps the ranges of R20, and
its error is one of the codes 2 to 12. That is said once for each effect; the invariant (O8) and the frame of the
host's inputs (O17) both follow from it. -/

/-- The buffers a command stores into, base and size (R66): all but `MSG`, `KEYMEM`, `KLEN`. -/
def workBuffers : List (Nat × Nat) :=
  [(Map.blk, 64), (Map.salt, 16), (Map.dig, 64), (Map.out, 4096), (Map.left, 2048), (Map.right, 2048),
   (Map.fout, 2048)]

/-- The buffers the host alone fills: `MSG`, `KEYMEM`, `KLEN` (R45, R46, R47). -/
def isInput (a : Nat) : Bool := inRegion Map.msg 4096 a || inRegion Map.keymem 2048 a || inRegion Map.klen 32 a

/-- The input buffers, as addresses (R66). -/
theorem isInput_iff (a : Nat) :
    isInput a = true ↔ (0x100 ≤ a ∧ a < 0x120) ∨ (0x800 ≤ a ∧ a < 0x2000) := by
  simp only [isInput, Bool.or_eq_true, inRegion_iff, Map.msg, Map.keymem, Map.klen]
  omega

/-- The work buffers, as addresses (R66). -/
theorem addr_of_mem_workBuffers {r : Nat × Nat} (hr : r ∈ workBuffers) {x : Nat} (hx : r.1 ≤ x ∧ x < r.1 + r.2) :
    (0x40 ≤ x ∧ x < 0x90) ∨ (0xC0 ≤ x ∧ x < 0x100) ∨ (0x2000 ≤ x ∧ x < 0x4800) := by
  simp only [workBuffers, List.mem_cons, List.not_mem_nil, or_false] at hr
  rcases hr with rfl | rfl | rfl | rfl | rfl | rfl | rfl <;>
    simp only [Map.blk, Map.salt, Map.dig, Map.out, Map.left, Map.right, Map.fout] at hx <;> omega

theorem isBuffer_of_mem_workBuffers {r : Nat × Nat} (hr : r ∈ workBuffers) {x : Nat}
    (hx : r.1 ≤ x ∧ x < r.1 + r.2) : isBuffer x = true := by
  have haddr := addr_of_mem_workBuffers hr hx
  rw [isBuffer_iff]
  omega

theorem not_isInput_of_mem_workBuffers {r : Nat × Nat} (hr : r ∈ workBuffers) {x : Nat}
    (hx : r.1 ≤ x ∧ x < r.1 + r.2) : ¬ isInput x = true := by
  have haddr := addr_of_mem_workBuffers hr hx
  rw [isInput_iff]
  omega

/-- What storing into the work buffers may do to the storage. -/
structure Mem.Worked (m m' : Mem) : Prop where
  wf : m.wf = true → m'.wf = true
  mapped : m.mapped = true → m'.mapped = true
  inputs : ∀ a, isInput a = true → m'.get a = m.get a

@[refl] theorem Mem.Worked.refl (m : Mem) : m.Worked m := ⟨id, id, fun _ _ => rfl⟩

theorem Mem.Worked.trans {m n p : Mem} (hmn : m.Worked n) (hnp : n.Worked p) : m.Worked p :=
  ⟨hnp.wf ∘ hmn.wf, hnp.mapped ∘ hmn.mapped, fun a ha => (hnp.inputs a ha).trans (hmn.inputs a ha)⟩

theorem Mem.worked_put (m : Mem) {r : Nat × Nat} (hr : r ∈ workBuffers) {a : Nat} {bs : List Byte}
    (hbase : r.1 ≤ a) (hfits : a + bs.length ≤ r.1 + r.2) : m.Worked (m.put a bs) where
  wf := m.wf_put a bs
  mapped hm := m.mapped_put a bs hm fun x hx hx' => isBuffer_of_mem_workBuffers hr ⟨by omega, by omega⟩
  inputs x hx := by
    refine m.get_put_out a bs x ?_
    by_contra hin
    exact not_isInput_of_mem_workBuffers hr ⟨by omega, by omega⟩ hx

/-- What the effect of a gated command may do to a state with its registers in range. -/
structure State.Worked (s t : State) : Prop where
  inRange : t.inRange
  err : t.err = s.err
  errcode : t.errcode = s.errcode
  errinfo : t.errinfo = s.errinfo
  msgLen : t.msgLen = s.msgLen
  nkeys : t.nkeys = s.nkeys
  mem : s.mem.Worked t.mem

theorem State.Worked.refl {s : State} (hs : s.inRange) : s.Worked s := ⟨hs, rfl, rfl, rfl, rfl, rfl, .refl _⟩

theorem State.Worked.trans {s t u : State} (hst : s.Worked t) (htu : t.Worked u) : s.Worked u where
  inRange := htu.inRange
  err := htu.err.trans hst.err
  errcode := htu.errcode.trans hst.errcode
  errinfo := htu.errinfo.trans hst.errinfo
  msgLen := htu.msgLen.trans hst.msgLen
  nkeys := htu.nkeys.trans hst.nkeys
  mem := hst.mem.trans htu.mem

/-- The effect of a command keeps the invariant. -/
theorem State.Worked.inv {s t : State} (h : s.Worked t) (hs : s.Inv) : t.Inv := by
  obtain ⟨-, hrecord, hwf, hmapped⟩ := hs
  refine ⟨h.inRange, ?_, h.mem.wf hwf, h.mem.mapped hmapped⟩
  rwa [State.errorRecord, h.err, h.errcode, h.errinfo]

/-! #### The updates the effects are made of

Each continues a chain of updates that began at `s`. -/

section Updates

variable {s t : State} (h : s.Worked t)
include h

theorem State.Worked.writeBytes {r : Nat × Nat} (hr : r ∈ workBuffers) {a : Nat} {bs : List Byte} (hbase : r.1 ≤ a)
    (hfits : a + bs.length ≤ r.1 + r.2) : s.Worked (t.writeBytes a bs) :=
  { h with mem := h.mem.trans (t.mem.worked_put hr hbase hfits) }

theorem State.Worked.setOutLen {n : Word} (hn : n.toNat ≤ 4096) : s.Worked (t.setOutLen n) := by
  obtain ⟨hmsg, -, hhlen, hflen, hnkeys, hrnd, hblk⟩ := h.inRange
  exact { h with inRange := ⟨hmsg, hn, hhlen, hflen, hnkeys, hrnd, hblk⟩ }

theorem State.Worked.setFlen {n : Word} (hn : n.toNat ≤ 2048) : s.Worked (t.setFlen n) := by
  obtain ⟨hmsg, hout, hhlen, -, hnkeys, hrnd, hblk⟩ := h.inRange
  exact { h with inRange := ⟨hmsg, hout, hhlen, hn, hnkeys, hrnd, hblk⟩ }

theorem State.Worked.setRnd {n : Word} (hn : n.toNat ≤ 32) : s.Worked (t.setRnd n) := by
  obtain ⟨hmsg, hout, hhlen, hflen, hnkeys, -, hblk⟩ := h.inRange
  exact { h with inRange := ⟨hmsg, hout, hhlen, hflen, hnkeys, hn, hblk⟩ }

theorem State.Worked.setBlkLen {n : Word} (hn : n.toNat ≤ 127) : s.Worked (t.setBlkLen n) := by
  obtain ⟨hmsg, hout, hhlen, hflen, hnkeys, hrnd, -⟩ := h.inRange
  exact { h with inRange := ⟨hmsg, hout, hhlen, hflen, hnkeys, hrnd, hn⟩ }

theorem State.Worked.setStripped (b : Bool) : s.Worked (t.setStripped b) := { h with }

theorem State.Worked.startJob {n : Nat} (hn : n ≤ 2048) (padded dir : Bool) :
    s.Worked (t.startJob n padded dir) := by
  obtain ⟨hmsg, hout, -, -, hnkeys, -, hblk⟩ := h.inRange
  have hhlen : (BitVec.ofNat 16 n).toNat ≤ 2048 := (Nat.mod_le _ _).trans hn
  exact { h with inRange := ⟨hmsg, hout, hhlen, Nat.zero_le _, hnkeys, Nat.zero_le _, hblk⟩ }

end Updates

/-! #### The effects -/

/-- The effect of a gated command: it works on the work buffers and the registers, or raises an error R261 has a
code for (R262: code 1 is raised by nothing). -/
structure SoundEffect (body : State → Result State) : Prop where
  worked : ∀ s t, s.inRange → body s = .ok t → s.Worked t
  error_ne : ∀ s e, body s = .error e → e ≠ .notAString

theorem SoundEffect.bind {f g : State → Result State} (hf : SoundEffect f) (hg : SoundEffect g) :
    SoundEffect (fun s => f s >>= g) where
  worked s t hs h := by
    obtain ⟨u, hu, ht⟩ := (bind_ok_iff _ _ _).1 h
    have hsu := hf.worked s u hs hu
    exact hsu.trans (hg.worked u t hsu.inRange ht)
  error_ne s e h := by
    obtain he | ⟨u, -, he⟩ := (bind_error_iff _ _ _).1 h
    · exact hf.error_ne s e he
    · exact hg.error_ne u e he

/-- An effect that cannot fail. -/
theorem SoundEffect.ok {f : State → State} (hf : ∀ s : State, s.inRange → s.Worked (f s)) :
    SoundEffect (fun s => .ok (f s)) where
  worked s t hs h := by cases h; exact hf s hs
  error_ne s e h := nomatch h

/-- A word takes a number in range as it is or smaller (registers are 16 bits wide, R20). -/
theorem toNat_ofNat_le {n bound : Nat} (h : n ≤ bound) : (BitVec.ofNat 16 n : Word).toNat ≤ bound :=
  (Nat.mod_le _ _).trans h

theorem State.blockLen_le (s : State) (i : Nat) : s.blockLen i ≤ 64 := min_le_left _ _

/-- A block the half has ends inside the half (R121, R150). -/
theorem State.blockOffset_add_blockLen_le (s : State) {i : Nat} (hi : 64 * i < s.hlen.toNat) :
    blockOffset i + s.blockLen i ≤ s.hlen.toNat := by
  simp only [State.blockLen, blockOffset, Config.blockSize]
  omega

theorem State.checkKey_error_ne (s : State) (k : Nat) (e : CmdError) (h : s.checkKey k = .error e) :
    e ≠ .notAString := by
  unfold State.checkKey at h
  split at h
  · cases h; nofun
  · split at h
    · cases h
    · cases h; nofun

theorem loadBlock_sound (i : Nat) : SoundEffect (loadBlock i) where
  worked s t hs h := by
    obtain ⟨-, rfl⟩ := (loadBlock_ok_iff i s t).1 h
    have hlen := s.blockLen_le i
    refine ((State.Worked.refl hs).writeBytes (r := (Map.blk, 64)) (by simp [workBuffers]) le_rfl ?_).setBlkLen
      (toNat_ofNat_le (by omega))
    rw [State.bytes_length]
    omega
  error_ne s e h := by
    unfold loadBlock at h
    split at h
    · cases h; nofun
    · cases h

theorem padBlock_sound : SoundEffect padBlock where
  worked s t hs h := by
    obtain ⟨⟨-, hlen⟩, rfl⟩ := (padBlock_ok_iff s t).1 h
    refine ((State.Worked.refl hs).writeBytes (r := (Map.blk, 64)) (by simp [workBuffers]) (Nat.le_add_right _ _)
      ?_).setBlkLen (by decide)
    rw [List.length_replicate]
    omega
  error_ne s e h := by
    unfold padBlock at h
    dsimp only at h
    split at h
    · cases h; nofun
    · cases h

theorem saltBlock_sound : SoundEffect saltBlock where
  worked s t hs h := by
    obtain ⟨-, -, rfl⟩ := (saltBlock_ok_iff s t).1 h
    exact (State.Worked.refl hs).writeBytes (r := (Map.salt, 16)) (by simp [workBuffers]) le_rfl (by simp)
  error_ne s e h := by
    unfold saltBlock at h
    split at h
    · cases h; nofun
    · split at h
      · cases h
      · cases h; nofun

theorem hashBlock_sound (k : Nat) : SoundEffect (hashBlock k) where
  worked s t hs h := by
    obtain ⟨-, -, rfl⟩ := (hashBlock_ok_iff k s t).1 h
    exact (State.Worked.refl hs).writeBytes (r := (Map.dig, 64)) (by simp [workBuffers]) le_rfl (by simp)
  error_ne s e h := by
    obtain he | ⟨key, -, he⟩ := (bind_error_iff _ _ _).1 h
    · exact s.checkKey_error_ne k e he
    · split at he
      · cases he; nofun
      · cases he

theorem emitBlock_sound (i : Nat) : SoundEffect (emitBlock i) where
  worked s t hs h := by
    obtain ⟨hi, rfl⟩ := (emitBlock_ok_iff i s t).1 h
    have ⟨_, _, hhlen, _⟩ := hs
    have hend := s.blockOffset_add_blockLen_le hi
    refine ((State.Worked.refl hs).writeBytes (r := (Map.fout, 2048)) (by simp [workBuffers]) (Nat.le_add_right _ _)
      ?_).setFlen (toNat_ofNat_le (by omega))
    rw [State.bytes_length]
    omega
  error_ne s e h := by
    unfold emitBlock at h
    split at h
    · cases h; nofun
    · cases h

theorem functionBlock_sound (k i : Nat) : SoundEffect (functionBlock k i) :=
  (loadBlock_sound i).bind (padBlock_sound.bind (saltBlock_sound.bind ((hashBlock_sound k).bind (emitBlock_sound i))))

theorem functionBlocks_sound (k : Nat) : ∀ n i, SoundEffect (functionBlocks k n i)
  | 0, _ => SoundEffect.ok fun _ hs => .refl hs
  | n + 1, i => (functionBlock_sound k i).bind (functionBlocks_sound k n (i + 1))

theorem applyFunction_sound (k : Nat) : SoundEffect (applyFunction k) where
  worked s t hs h := by
    obtain ⟨-, -, hblocks⟩ := (applyFunction_ok_iff k s t).1 h
    exact (functionBlocks_sound k _ 0).worked s t hs hblocks
  error_ne s e h := by
    obtain he | ⟨key, -, he⟩ := (bind_error_iff _ _ _).1 h
    · exact s.checkKey_error_ne k e he
    · split at he
      · cases he; nofun
      · exact (functionBlocks_sound k _ 0).error_ne s e he

/-- The two halves of a message of `MSG_LEN` bytes, the pad byte counted, are `⌈MSG_LEN/2⌉` bytes each (R115). -/
theorem State.rightHalf_fits (s : State) :
    s.msgLen.toNat - halfUp s.msgLen.toNat + (if s.paddedFlag then [s.straps.pad] else []).length
      ≤ halfUp s.msgLen.toNat := by
  simp only [State.paddedFlag, isOdd, halfUp, beq_iff_eq]
  split
  · simp only [List.length_singleton]; omega
  · simp only [List.length_nil]; omega

theorem splitMessage_sound (dir : Bool) : SoundEffect (splitMessage dir) where
  worked s t hs h := by
    obtain ⟨-, rfl⟩ := (splitMessage_ok_iff dir s t).1 h
    have ⟨hmsg, _⟩ := hs
    have hhalf : halfUp s.msgLen.toNat ≤ 2048 := by simp only [halfUp]; omega
    have hright := s.rightHalf_fits
    refine (((State.Worked.refl hs).writeBytes (r := (Map.left, 2048)) (by simp [workBuffers]) le_rfl
      ?left).writeBytes (r := (Map.right, 2048)) (by simp [workBuffers]) le_rfl ?right).startJob hhalf _ _
    case left => rw [State.bytes_length]; omega
    case right => rw [List.length_append, State.bytes_length]; omega
  error_ne s e h := by
    unfold splitMessage at h
    dsimp only at h
    split at h
    · cases h; nofun
    · cases h

@[simp] theorem State.leftHalf_length (s : State) : s.leftHalf.length = s.hlen.toNat := s.bytes_length _ _

@[simp] theorem State.rightHalf_length (s : State) : s.rightHalf.length = s.hlen.toNat := s.bytes_length _ _

theorem xorLeft_sound : SoundEffect xorLeft where
  worked s t hs h := by
    obtain ⟨-, rfl⟩ := (xorLeft_ok_iff s t).1 h
    have ⟨_, _, hhlen, _⟩ := hs
    refine (State.Worked.refl hs).writeBytes (r := (Map.left, 2048)) (by simp [workBuffers]) le_rfl ?_
    simp only [Units.xorBytes, List.length_zipWith, State.leftHalf_length]
    omega
  error_ne s e h := by
    unfold xorLeft at h
    split at h
    · cases h; nofun
    · cases h

theorem swapHalves_worked (s : State) (hs : s.inRange) : s.Worked (swapHalves s) := by
  have ⟨_, _, hhlen, _⟩ := hs
  refine ((State.Worked.refl hs).writeBytes (r := (Map.left, 2048)) (by simp [workBuffers]) le_rfl ?_).writeBytes
    (r := (Map.right, 2048)) (by simp [workBuffers]) le_rfl ?_
  · rw [State.rightHalf_length]; omega
  · rw [State.leftHalf_length]; omega

theorem oneRound_sound : SoundEffect oneRound where
  worked s t hs h := by
    obtain ⟨hrnd, u, v, hu, hv, rfl⟩ := (oneRound_ok_iff s t).1 h
    have ⟨_, _, _, _, hnkeys, _⟩ := hs
    have hsu := (applyFunction_sound _).worked s u hs hu
    have hsv := hsu.trans (xorLeft_sound.worked u v hsu.inRange hv)
    exact (hsv.trans (swapHalves_worked v hsv.inRange)).setRnd (toNat_ofNat_le (by omega))
  error_ne s e h := by
    unfold oneRound at h
    split at h
    · cases h; nofun
    · obtain he | ⟨u, -, he⟩ := (bind_error_iff _ _ _).1 h
      · exact (applyFunction_sound _).error_ne s e he
      · obtain he | ⟨v, -, he⟩ := (bind_error_iff _ _ _).1 he
        · exact xorLeft_sound.error_ne u e he
        · cases he

theorem joinHalves_worked (s : State) (hs : s.inRange) : s.Worked (joinHalves s) := by
  have ⟨_, _, hhlen, _⟩ := hs
  refine ((State.Worked.refl hs).writeBytes (r := (Map.out, 4096)) (by simp [workBuffers]) le_rfl ?_).setOutLen
    (toNat_ofNat_le (by omega))
  rw [List.length_append, State.rightHalf_length, State.leftHalf_length]
  omega

theorem stripOutput_worked (oob odd : Bool) (s : State) (hs : s.inRange) :
    s.Worked (stripOutput oob odd s) := by
  have ⟨_, hout, _⟩ := hs
  obtain ⟨-, h⟩ | ⟨-, h⟩ := stripOutput_cases oob odd s
  · rw [h]; exact ((State.Worked.refl hs).setOutLen (toNat_ofNat_le (by omega))).setStripped true
  · rw [h]; exact (State.Worked.refl hs).setStripped false

theorem manyRounds_sound : ∀ n, SoundEffect (manyRounds n)
  | 0 => SoundEffect.ok fun _ hs => .refl hs
  | n + 1 => oneRound_sound.bind (manyRounds_sound n)

/-- A job is SPLIT, a number of rounds and JOIN; the number is the only thing it takes from the state. -/
theorem runJob_sound (dir : Bool) : SoundEffect (runJob dir) where
  worked s t hs h := by
    obtain ⟨-, u, v, hu, hv, rfl⟩ := (runJob_ok_iff dir s t).1 h
    have hsu := (splitMessage_sound dir).worked s u hs hu
    have hsv := hsu.trans ((manyRounds_sound _).worked u v hsu.inRange hv)
    exact hsv.trans (joinHalves_worked v hsv.inRange)
  error_ne s e h := by
    unfold runJob at h
    split at h
    · cases h; nofun
    · exact ((splitMessage_sound dir).bind ((manyRounds_sound s.nkeys.toNat).bind
        (SoundEffect.ok joinHalves_worked))).error_ne s e h

theorem decodeJob_sound (oob odd : Bool) : SoundEffect (decodeJob oob odd) :=
  (runJob_sound true).bind (SoundEffect.ok (stripOutput_worked oob odd))

/-! #### Commands -/

/-- A command that is no system command runs a sound effect behind the gate `ERR` (R90 steps 4 and 6). -/
theorem exec_gated {i : Instr} (hi : isSystem i = false) :
    ∃ body, SoundEffect body ∧ ∀ s, exec i s = runCommand s body := by
  cases i with
  | nop | clrerr | sreset => cases hi
  | split dir => exact ⟨_, splitMessage_sound dir, fun _ => rfl⟩
  | fapply k => exact ⟨_, applyFunction_sound k, fun _ => rfl⟩
  | xorl => exact ⟨_, xorLeft_sound, fun _ => rfl⟩
  | swap => exact ⟨_, .ok swapHalves_worked, fun _ => rfl⟩
  | round => exact ⟨_, oneRound_sound, fun _ => rfl⟩
  | join => exact ⟨_, .ok joinHalves_worked, fun _ => rfl⟩
  | stripH => exact ⟨_, .ok (stripOutput_worked false false), fun _ => rfl⟩
  | stripE => exact ⟨_, .ok (stripOutput_worked true false), fun _ => rfl⟩
  | stripO => exact ⟨_, .ok (stripOutput_worked true true), fun _ => rfl⟩
  | blkload b => exact ⟨_, loadBlock_sound b, fun _ => rfl⟩
  | blkpad => exact ⟨_, padBlock_sound, fun _ => rfl⟩
  | salt => exact ⟨_, saltBlock_sound, fun _ => rfl⟩
  | hash k => exact ⟨_, hashBlock_sound k, fun _ => rfl⟩
  | emit b => exact ⟨_, emitBlock_sound b, fun _ => rfl⟩
  | encode => exact ⟨_, runJob_sound false, fun _ => rfl⟩
  | decodeH => exact ⟨_, decodeJob_sound false false, fun _ => rfl⟩
  | decodeE => exact ⟨_, decodeJob_sound true false, fun _ => rfl⟩
  | decodeO => exact ⟨_, decodeJob_sound true true, fun _ => rfl⟩

theorem eq_of_isSystem {i : Instr} (hi : isSystem i = true) : i = .nop ∨ i = .clrerr ∨ i = .sreset := by
  cases i with
  | nop => exact .inl rfl
  | clrerr => exact .inr (.inl rfl)
  | sreset => exact .inr (.inr rfl)
  | _ => cases hi

/-- What a command can be: NOP, CLRERR, SRESET, or a sound effect behind the gate. -/
theorem exec_cases (i : Instr) :
    i = .nop ∨ i = .clrerr ∨ i = .sreset ∨ ∃ body, SoundEffect body ∧ ∀ s, exec i s = runCommand s body := by
  cases hi : isSystem i with
  | false => exact .inr (.inr (.inr (exec_gated hi)))
  | true =>
    obtain h | h | h := eq_of_isSystem hi
    · exact .inl h
    · exact .inr (.inl h)
    · exact .inr (.inr (.inl h))

/-! #### The host's inputs -/

/-- The message, its length, the keys and their lengths and number stand as they did (R41, R43, R45 to R47). -/
structure State.InputsKept (s t : State) : Prop where
  msgLen : t.msgLen = s.msgLen
  nkeys : t.nkeys = s.nkeys
  bytes : ∀ a, isInput a = true → t.mem.get a = s.mem.get a

theorem State.Worked.inputsKept {s t : State} (h : s.Worked t) : s.InputsKept t := ⟨h.msgLen, h.nkeys, h.mem.inputs⟩

/-- A gated command keeps the inputs: refused or failing it touches none of them (R270, R271). -/
theorem runCommand_inputsKept {body : State → Result State} (hbody : SoundEffect body) {s t : State} (hs : s.inRange)
    (h : runCommand s body = .next t) : s.InputsKept t := by
  obtain ⟨-, rfl⟩ | ⟨-, hok⟩ | ⟨-, e, -, rfl⟩ := (runCommand_next_iff s body t).1 h
  · exact ⟨rfl, rfl, fun _ _ => rfl⟩
  · exact (hbody.worked s t hs hok).inputsKept
  · exact ⟨rfl, rfl, fun _ _ => rfl⟩

theorem exec_inputsKept {i : Instr} (hi : i ≠ .sreset) {s t : State} (hs : s.inRange) (h : exec i s = .next t) :
    s.InputsKept t := by
  obtain rfl | rfl | rfl | ⟨body, hbody, hexec⟩ := exec_cases i
  · cases h; exact ⟨rfl, rfl, fun _ _ => rfl⟩
  · cases h; exact ⟨rfl, rfl, fun _ _ => rfl⟩
  · exact absurd rfl hi
  · exact runCommand_inputsKept hbody hs (hexec s ▸ h)

/-- SRESET stores into `KLEN`, `SALTREG` and `DIG` alone (R222). -/
theorem State.softReset_get_of_not_isZeroed (s : State) {a : Nat} (ha : ¬ isZeroed a = true) :
    s.softReset.mem.get a = s.mem.get a := by
  rw [isZeroed_iff] at ha
  rw [State.softReset_mem, Mem.get_put_out, Mem.get_put_out, Mem.get_put_out]
  all_goals simp only [List.length_replicate, Map.klen, Map.salt, Map.dig]; omega

theorem message_or_key_isInput {a : Nat} (ha : inRegion Map.msg 4096 a = true ∨ inRegion Map.keymem 2048 a = true) :
    isInput a = true := by
  rw [isInput, Bool.or_eq_true, Bool.or_eq_true]
  exact .inl ha

/-- Settles O17: SRESET by what it stores, every other command by the frame of the inputs. -/
theorem commandsNeverWriteKeysOrMessage : Obligations.CommandsNeverWriteKeysOrMessage := by
  rintro i s t ⟨hs, -⟩ h
  by_cases hi : i = .sreset
  · subst hi
    cases h
    refine ⟨fun a ha => s.softReset_get_of_not_isZeroed ?_, fun hne => absurd rfl hne⟩
    simp only [inRegion_iff, Map.msg, Map.keymem] at ha
    rw [isZeroed_iff]
    omega
  · have hkept := exec_inputsKept hi hs h
    refine ⟨fun a ha => hkept.bytes a (message_or_key_isInput ha), fun _ => ⟨hkept.msgLen, hkept.nkeys, ?_⟩⟩
    exact fun a ha => hkept.bytes a (by simp [isInput, ha])

/-! #### The invariant under commands -/

/-- The codes of R261 that are raised: 2 to 12. -/
theorem CmdError.code_range {e : CmdError} (h : e ≠ .notAString) : 2 ≤ e.code.toNat ∧ e.code.toNat ≤ 12 := by
  cases e with
  | notAString => exact absurd rfl h
  | _ => simp [CmdError.code]

theorem State.fail_inv {s : State} (hs : s.Inv) {e : CmdError} (he : e ≠ .notAString) : (s.fail e).Inv := by
  obtain ⟨hranges, -, hstorage⟩ := hs
  exact ⟨hranges, ⟨nofun, fun _ => CmdError.code_range he⟩, hstorage⟩

theorem State.ackError_inv {s : State} (hs : s.Inv) : s.ackError.Inv := by
  obtain ⟨hranges, -, hstorage⟩ := hs
  exact ⟨hranges, ⟨fun _ => ⟨rfl, rfl⟩, nofun⟩, hstorage⟩

/-- Bytes stored at mapped addresses keep the invariant (R66). -/
theorem State.writeBytes_inv {s : State} (hs : s.Inv) {a : Nat} {bs : List Byte}
    (hb : ∀ x, a ≤ x → x < a + bs.length → isBuffer x = true) : (s.writeBytes a bs).Inv := by
  obtain ⟨hranges, hrecord, hwf, hmapped⟩ := hs
  exact ⟨hranges, hrecord, s.mem.wf_put a bs hwf, s.mem.mapped_put a bs hmapped hb⟩

/-- A soft reset clears the registers to their values after a hard reset (R50, R51). -/
theorem State.clearRegs_inv {s : State} (hs : s.Inv) : s.clearRegs.Inv := by
  obtain ⟨-, -, hstorage⟩ := hs
  obtain ⟨hranges, hrecord, -⟩ := resetSatisfiesInvariant
  exact ⟨hranges, hrecord, hstorage⟩

theorem State.softReset_inv {s : State} (hs : s.Inv) : s.softReset.Inv := by
  refine State.writeBytes_inv (State.writeBytes_inv (State.writeBytes_inv (State.clearRegs_inv hs) ?_) ?_) ?_
  all_goals
    intro x hx hx'
    simp only [List.length_replicate, Map.klen, Map.salt, Map.dig] at hx hx'
    rw [isBuffer_iff]
    omega

theorem runCommand_inv {body : State → Result State} (hbody : SoundEffect body) {s t : State} (hs : s.Inv)
    (h : runCommand s body = .next t) : t.Inv := by
  obtain ⟨-, rfl⟩ | ⟨-, hok⟩ | ⟨-, e, herror, rfl⟩ := (runCommand_next_iff s body t).1 h
  · exact hs
  · exact (hbody.worked s t hs.1 hok).inv hs
  · exact State.fail_inv hs (hbody.error_ne s e herror)

theorem exec_inv (i : Instr) {s t : State} (hs : s.Inv) (h : exec i s = .next t) : t.Inv := by
  obtain rfl | rfl | rfl | ⟨body, hbody, hexec⟩ := exec_cases i
  · cases h; exact hs
  · cases h; exact State.ackError_inv hs
  · cases h; exact State.softReset_inv hs
  · exact runCommand_inv hbody hs (hexec s ▸ h)

theorem illegalWord_sound (w : Word) : SoundEffect (fun _ => .error (.illegalCommand w)) where
  worked _ _ _ h := nomatch h
  error_ne _ e h := by cases h; nofun

theorem illegalWord_inv (w : Word) {s t : State} (hs : s.Inv) (h : illegalWord w s = .next t) : t.Inv :=
  runCommand_inv (illegalWord_sound w) hs h

/-- Storing the word in `CMD` touches nothing the invariant speaks of. -/
theorem issue_inv (w : Word) {s t : State} (hs : s.Inv) (h : issue w s = .next t) : t.Inv := by
  have hcmd : (s.setCmd w).Inv := hs
  cases hd : decode w with
  | ok i => exact exec_inv i hcmd (issue_of_decode w s i hd ▸ h)
  | error e => exact illegalWord_inv w hcmd (issue_of_illegal w s e hd ▸ h)

/-! #### The invariant under host actions -/

/-- A length register takes a value in its range or none (R70). -/
theorem State.ctrlWrite_inv {s t : State} (hs : s.Inv) {r : CtrlReg} {v : Word} (h : s.ctrlWrite r v = some t) :
    t.Inv := by
  obtain ⟨⟨hmsg, hout, hhlen, hflen, hnkeys, hrnd, hblk⟩, hrecord, hstorage⟩ := hs
  cases r with
  | msgLen =>
    obtain ⟨hv, rfl⟩ := (checked_some_iff v _ _ t).1 h
    exact ⟨⟨hv, hout, hhlen, hflen, hnkeys, hrnd, hblk⟩, hrecord, hstorage⟩
  | outLen =>
    obtain ⟨hv, rfl⟩ := (checked_some_iff v _ _ t).1 h
    exact ⟨⟨hmsg, hv, hhlen, hflen, hnkeys, hrnd, hblk⟩, hrecord, hstorage⟩
  | hlen =>
    obtain ⟨hv, rfl⟩ := (checked_some_iff v _ _ t).1 h
    exact ⟨⟨hmsg, hout, hv, hflen, hnkeys, hrnd, hblk⟩, hrecord, hstorage⟩
  | flen =>
    obtain ⟨hv, rfl⟩ := (checked_some_iff v _ _ t).1 h
    exact ⟨⟨hmsg, hout, hhlen, hv, hnkeys, hrnd, hblk⟩, hrecord, hstorage⟩
  | nkeys =>
    obtain ⟨hv, rfl⟩ := (checked_some_iff v _ _ t).1 h
    exact ⟨⟨hmsg, hout, hhlen, hflen, hv, hrnd, hblk⟩, hrecord, hstorage⟩
  | blkLen =>
    obtain ⟨hv, rfl⟩ := (checked_some_iff v _ _ t).1 h
    exact ⟨⟨hmsg, hout, hhlen, hflen, hnkeys, hrnd, hv⟩, hrecord, hstorage⟩
  | cmd | status | errcode | errinfo | rnd | cfgr => cases h

theorem State.busWrite8_inv {s t : State} (hs : s.Inv) {a : Word} {v : Byte} (h : s.busWrite8 a v = some t) :
    t.Inv := by
  obtain ⟨hbuffer, rfl⟩ := (s.busWrite8_some_iff t a v).1 h
  refine State.writeBytes_inv hs fun x hx hx' => ?_
  have hxa : x = a.toNat := by rw [List.length_singleton] at hx'; omega
  rwa [hxa]

/-- Every buffer begins and ends at an even address, so a mapped pair lies in one (R63, R66). -/
theorem isBuffer_succ_of_even {a : Nat} (heven : isOdd a = false) (h : isBuffer a = true) :
    isBuffer (a + 1) = true := by
  simp only [isOdd, beq_eq_false_iff_ne] at heven
  rw [isBuffer_iff] at h ⊢
  omega

theorem State.busWrite16_inv {s t : State} (hs : s.Inv) {a v : Word} (h : s.busWrite16 a v = some t) : t.Inv := by
  obtain ⟨heven, ⟨-, r, -, hreg⟩ | ⟨-, hbuffer, rfl⟩⟩ := (s.busWrite16_some_iff t a v).1 h
  · exact State.ctrlWrite_inv hs hreg
  · refine State.writeBytes_inv hs fun x hx hx' => ?_
    have hpair : x = a.toNat ∨ x = a.toNat + 1 := by
      simp only [List.length_cons, List.length_nil] at hx'
      omega
    obtain rfl | rfl := hpair
    · exact hbuffer
    · exact isBuffer_succ_of_even heven hbuffer

/-- A write answered `ERR` has no effect to keep the invariant under (R73). -/
theorem State.answerWrite_inv {s : State} (hs : s.Inv) {r : Option State} (hr : ∀ t, r = some t → t.Inv) :
    (s.answerWrite r).Inv := by
  obtain ⟨t, ht, heq⟩ | ⟨-, heq⟩ := s.answerWrite_cases r
  · rw [heq]; exact hr t ht
  · rw [heq]; exact hs

/-- A hard reset needs no invariant before it: it establishes one (R50, R290). -/
theorem State.hardReset_inv (s : State) (straps : Straps) (kh : HashInstance) (image : List Host.Cell) :
    (s.hardReset straps kh image).Inv := by
  obtain ⟨hranges, hrecord, -⟩ := resetSatisfiesInvariant
  exact ⟨hranges, hrecord, Mem.wf_ofImage image, Mem.mapped_ofImage image⟩

theorem perform_inv (act : HostAction) {s t : State} (hs : s.Inv) (h : perform act s = .next t) : t.Inv := by
  cases act with
  | read8 a => cases h; exact hs
  | read16 a => cases h; exact hs
  | write8 a v => cases h; exact State.answerWrite_inv hs fun _ => State.busWrite8_inv hs
  | write16 a v =>
    by_cases ha : a = 0
    · subst ha
      rw [perform_command] at h
      exact issue_inv v (s := s.answer .ok) hs h
    · rw [perform, if_neg ha] at h
      cases h
      exact State.answerWrite_inv hs fun _ => State.busWrite16_inv hs
  | hardReset straps kh image => cases h; exact s.hardReset_inv straps kh image

/-- Settles O8, by the pending list: an idle step changes nothing, and any other step is one host action. -/
theorem stepKeepsInvariant : Obligations.StepKeepsInvariant := by
  intro s t hs h
  cases hp : s.pending with
  | nil =>
    rw [step_idle s hp] at h
    cases h
    exact hs
  | cons act rest =>
    rw [step_action s act rest hp] at h
    exact perform_inv act (s := s.setPending rest) hs h

end Sys2Proof.Machine

namespace Sys2Proof.Machine

/-! ### The bus

The obligations of 20_memory.md, O5 and O18 to O25. First the address map (R66) as a case split over addresses, then
what each transaction does in each case, said once for reads and once for writes. -/

/-! #### The address map -/

theorem isOdd_iff (a : Nat) : isOdd a = true ↔ a % 2 = 1 := beq_iff_eq

theorem isOdd_eq_false_iff (a : Nat) : isOdd a = false ↔ a % 2 = 0 := by
  rw [Bool.eq_false_iff, Ne, isOdd_iff]
  omega

theorem isCtrl_iff (a : Nat) : isCtrl a = true ↔ a < 0x40 := decide_eq_true_iff

theorem reservedAddr_iff (a : Nat) :
    reservedAddr a = true ↔
      (0x18 ≤ a ∧ a ≤ 0x3F) ∨ (0x90 ≤ a ∧ a ≤ 0xBF) ∨ (0x120 ≤ a ∧ a ≤ 0x7FF) ∨ 0x4800 ≤ a :=
  decide_eq_true_iff

/-- A buffer address is one that is neither a control register's nor reserved (R66). -/
theorem isBuffer_eq_false_iff (a : Nat) : isBuffer a = false ↔ a < 0x40 ∨ reservedAddr a = true := by
  rw [Bool.eq_false_iff, Ne, isBuffer_iff, reservedAddr_iff]
  omega

theorem isCtrl_eq_false_of_isBuffer {a : Nat} (h : isBuffer a = true) : isCtrl a = false := by
  rw [isBuffer_iff] at h
  rw [Bool.eq_false_iff, Ne, isCtrl_iff]
  omega

/-- Where each control register stands (R66). -/
def CtrlReg.addr : CtrlReg → Nat
  | .cmd => 0x00
  | .status => 0x02
  | .errcode => 0x04
  | .errinfo => 0x06
  | .msgLen => 0x08
  | .outLen => 0x0A
  | .hlen => 0x0C
  | .flen => 0x0E
  | .nkeys => 0x10
  | .rnd => 0x12
  | .blkLen => 0x14
  | .cfgr => 0x16

@[simp] theorem ctrlReg_addr (r : CtrlReg) : ctrlReg r.addr = some r := by cases r <;> rfl

theorem CtrlReg.addr_even (r : CtrlReg) : r.addr % 2 = 0 := by cases r <;> rfl

theorem CtrlReg.addr_lt (r : CtrlReg) : r.addr < 0x18 := by cases r <;> decide

theorem ctrlReg_eq_some_iff (a : Nat) (r : CtrlReg) : ctrlReg a = some r ↔ a = r.addr := by
  constructor
  · intro h
    unfold ctrlReg at h
    split at h <;> cases h <;> rfl
  · rintro rfl
    exact ctrlReg_addr r

theorem ctrlReg_eq_none_of_reserved {a : Nat} (h : reservedAddr a = true) (hctrl : a < 0x40) : ctrlReg a = none := by
  rw [Option.eq_none_iff_forall_ne_some]
  intro r hr
  have haddr := (ctrlReg_eq_some_iff a r).1 hr
  have hlt := r.addr_lt
  rw [reservedAddr_iff] at h
  omega

/-- The even addresses below 0x18 are the control registers' (R66). -/
theorem exists_ctrlReg_addr {a : Nat} (hlt : a < 0x18) (heven : a % 2 = 0) : ∃ r : CtrlReg, a = r.addr := by
  have hsome : ∀ b < 0x18, b % 2 = 0 → (ctrlReg b).isSome = true := by decide
  obtain ⟨r, hr⟩ := Option.isSome_iff_exists.1 (hsome a hlt heven)
  exact ⟨r, (ctrlReg_eq_some_iff a r).1 hr⟩

/-- What the address of a 2-byte access can be (R64, R65, R66). -/
theorem addr16_cases (a : Nat) :
    a % 2 = 1 ∨ reservedAddr a = true ∨ (∃ r : CtrlReg, a = r.addr) ∨ (a % 2 = 0 ∧ isBuffer a = true) := by
  by_cases hodd : a % 2 = 1
  · exact .inl hodd
  have heven : a % 2 = 0 := by omega
  cases hbuffer : isBuffer a with
  | true => exact .inr (.inr (.inr ⟨heven, rfl⟩))
  | false =>
    obtain hctrl | hres := (isBuffer_eq_false_iff a).1 hbuffer
    · by_cases hlt : a < 0x18
      · exact .inr (.inr (.inl (exists_ctrlReg_addr hlt heven)))
      · exact .inr (.inl ((reservedAddr_iff a).2 (by omega)))
    · exact .inr (.inl hres)

/-! #### Bytes of a word -/

theorem lowByte_eq_extractLsb' (v : Word) : lowByte v = v.extractLsb' 0 8 := rfl

theorem highByte_eq_extractLsb' (v : Word) : highByte v = v.extractLsb' 8 8 := by
  rw [highByte, BitVec.extractLsb', Nat.shiftRight_eq_div_pow]

theorem joinBytes_toNat (lo hi : Byte) : (joinBytes lo hi).toNat = lo.toNat + 256 * hi.toNat := by
  rw [joinBytes, BitVec.toNat_ofNat]
  omega

@[simp] theorem lowByte_joinBytes (lo hi : Byte) : lowByte (joinBytes lo hi) = lo := by
  apply BitVec.eq_of_toNat_eq
  rw [lowByte, BitVec.toNat_ofNat, joinBytes_toNat]
  omega

@[simp] theorem highByte_joinBytes (lo hi : Byte) : highByte (joinBytes lo hi) = hi := by
  apply BitVec.eq_of_toNat_eq
  rw [highByte, BitVec.toNat_ofNat, joinBytes_toNat]
  omega

@[simp] theorem joinBytes_lowByte_highByte (v : Word) : joinBytes (lowByte v) (highByte v) = v := by
  apply BitVec.eq_of_toNat_eq
  rw [joinBytes_toNat, lowByte, highByte, BitVec.toNat_ofNat, BitVec.toNat_ofNat]
  omega

/-! #### Reads -/

theorem State.busRead8_of_isBuffer (s : State) {a : Word} (h : isBuffer a.toNat = true) :
    s.busRead8 a = .okByte (s.mem.get a.toNat) := if_pos h

theorem State.busRead8_eq_err_iff (s : State) (a : Word) : s.busRead8 a = .err ↔ isBuffer a.toNat = false := by
  cases h : isBuffer a.toNat <;> simp [State.busRead8, h]

theorem State.busRead16_of_odd (s : State) {a : Word} (h : a.toNat % 2 = 1) : s.busRead16 a = .err :=
  if_pos ((isOdd_iff _).2 h)

theorem State.busRead16_of_reserved (s : State) {a : Word} (h : reservedAddr a.toNat = true) :
    s.busRead16 a = .err := by
  have hbuffer := (isBuffer_eq_false_iff a.toNat).2 (.inr h)
  by_cases hctrl : a.toNat < 0x40
  · simp [State.busRead16, hbuffer, ctrlReg_eq_none_of_reserved h hctrl]
  · simp [State.busRead16, hbuffer, mt (isCtrl_iff _).1 hctrl]

theorem State.busRead16_of_addr (s : State) {a : Word} {r : CtrlReg} (h : a.toNat = r.addr) :
    s.busRead16 a = .okWord (s.ctrlRead r) := by
  have heven := (isOdd_eq_false_iff _).2 r.addr_even
  have hctrl := (isCtrl_iff _).2 (r.addr_lt.trans (by decide))
  simp [State.busRead16, h, heven, hctrl]

theorem State.busRead16_of_isBuffer (s : State) {a : Word} (heven : a.toNat % 2 = 0) (h : isBuffer a.toNat = true) :
    s.busRead16 a = .okWord (joinBytes (s.mem.get a.toNat) (s.mem.get (a.toNat + 1))) := by
  simp [State.busRead16, State.byteAt, (isOdd_eq_false_iff _).2 heven, isCtrl_eq_false_of_isBuffer h, h]

/-- Settles O19: by the cases of the address map. -/
theorem readErrorsExactly : Obligations.ReadErrorsExactly := by
  intro s a
  refine ⟨(s.busRead8_eq_err_iff a).trans (isBuffer_eq_false_iff _), ?_⟩
  obtain hodd | hres | ⟨r, hr⟩ | ⟨heven, hbuffer⟩ := addr16_cases a.toNat
  · simp [s.busRead16_of_odd hodd, hodd]
  · simp [s.busRead16_of_reserved hres, hres]
  · have heven := r.addr_even
    have hlt := r.addr_lt
    rw [s.busRead16_of_addr hr, reservedAddr_iff]
    simp only [reduceCtorEq, false_iff]
    omega
  · have hnot := mt (fun h => (isBuffer_eq_false_iff a.toNat).2 (.inr h)) (by simp [hbuffer])
    simp [s.busRead16_of_isBuffer heven hbuffer, heven, hnot]

/-- Settles O18: a read is its answer, and the answer is that of its case of the address map. -/
theorem readsHaveNoSideEffect : Obligations.ReadsHaveNoSideEffect := by
  intro s a
  have hreg : ∀ r : CtrlReg, s.busRead16 (BitVec.ofNat 16 r.addr) = .okWord (s.ctrlRead r) := fun r =>
    s.busRead16_of_addr (by cases r <;> rfl)
  refine ⟨rfl, rfl, ?_, fun h => s.busRead8_of_isBuffer h, fun h heven => ?_⟩
  · exact ⟨hreg .cmd, hreg .status, hreg .errcode, hreg .errinfo, hreg .msgLen, hreg .outLen, hreg .hlen, hreg .flen,
      hreg .nkeys, hreg .rnd, hreg .blkLen, hreg .cfgr⟩
  · refine ⟨_, s.busRead16_of_isBuffer heven h, ?_, ?_⟩
    · rw [← lowByte_eq_extractLsb', lowByte_joinBytes]
    · rw [← highByte_eq_extractLsb', highByte_joinBytes]

/-! #### Writes -/

theorem checked_eq_none_iff (v : Word) (max : Nat) (t : State) : checked v max t = none ↔ max < v.toNat := by
  simp [checked]

theorem State.answerWrite_checked (s : State) (v : Word) (max : Nat) (t : State) :
    s.answerWrite (checked v max t) = if v.toNat ≤ max then t.answer .ok else s.answer .err := by
  unfold checked
  split
  · rfl
  · rfl

theorem perform_write16_of_ne {a : Word} (ha : a ≠ 0) (v : Word) (s : State) :
    perform (.write16 a v) s = .next (s.answerWrite (s.busWrite16 a v)) := if_neg ha

theorem State.busWrite8_eq_none_iff (s : State) (a : Word) (b : Byte) :
    s.busWrite8 a b = none ↔ isBuffer a.toNat = false := by
  cases h : isBuffer a.toNat <;> simp [State.busWrite8, h]

theorem State.busWrite16_of_odd (s : State) {a : Word} (h : a.toNat % 2 = 1) (v : Word) : s.busWrite16 a v = none :=
  if_pos ((isOdd_iff _).2 h)

theorem State.busWrite16_of_reserved (s : State) {a : Word} (h : reservedAddr a.toNat = true) (v : Word) :
    s.busWrite16 a v = none := by
  have hbuffer := (isBuffer_eq_false_iff a.toNat).2 (.inr h)
  by_cases hctrl : a.toNat < 0x40
  · simp [State.busWrite16, hbuffer, ctrlReg_eq_none_of_reserved h hctrl]
  · simp [State.busWrite16, hbuffer, mt (isCtrl_iff _).1 hctrl]

theorem State.busWrite16_of_addr (s : State) {a : Word} {r : CtrlReg} (h : a.toNat = r.addr) (v : Word) :
    s.busWrite16 a v = s.ctrlWrite r v := by
  have heven := (isOdd_eq_false_iff _).2 r.addr_even
  have hctrl := (isCtrl_iff _).2 (r.addr_lt.trans (by decide))
  simp [State.busWrite16, h, heven, hctrl]

theorem State.busWrite16_of_isBuffer (s : State) {a : Word} (heven : a.toNat % 2 = 0) (h : isBuffer a.toNat = true)
    (v : Word) : s.busWrite16 a v = some (s.writeBytes a.toNat [lowByte v, highByte v]) :=
  (s.busWrite16_some_iff _ a v).2
    ⟨(isOdd_eq_false_iff _).2 heven, .inr ⟨isCtrl_eq_false_of_isBuffer h, h, rfl⟩⟩

/-! ##### Length registers -/

/-- A write to a range-checked register, whichever it is (R70). -/
theorem perform_write16_checked {a : Word} {r : CtrlReg} (ha : a ≠ 0) (haddr : a.toNat = r.addr) {s t : State}
    {v : Word} {max : Nat} (hr : s.ctrlWrite r v = checked v max t) :
    perform (.write16 a v) s = .next (if v.toNat ≤ max then t.answer .ok else s.answer .err) := by
  rw [perform_write16_of_ne ha, s.busWrite16_of_addr haddr, hr, s.answerWrite_checked]

/-- Settles O22: the six registers are range-checked alike. -/
theorem lengthRegistersAreRangeChecked : Obligations.LengthRegistersAreRangeChecked := fun _ _ =>
  ⟨perform_write16_checked (r := .msgLen) (by decide) rfl rfl,
    perform_write16_checked (r := .outLen) (by decide) rfl rfl,
    perform_write16_checked (r := .hlen) (by decide) rfl rfl,
    perform_write16_checked (r := .flen) (by decide) rfl rfl,
    perform_write16_checked (r := .nkeys) (by decide) rfl rfl,
    perform_write16_checked (r := .blkLen) (by decide) rfl rfl⟩

/-! ##### Buffers -/

theorem perform_write8_of_isBuffer (s : State) {a : Word} (h : isBuffer a.toNat = true) (b : Byte) :
    perform (.write8 a b) s = .next ((s.writeBytes a.toNat [b]).answer .ok) := by
  rw [perform, (s.busWrite8_some_iff _ a b).2 ⟨h, rfl⟩, State.answerWrite]

theorem ne_zero_of_isBuffer {a : Word} (h : isBuffer a.toNat = true) : a ≠ 0 := by
  rintro rfl
  exact absurd h (by decide)

theorem perform_write16_of_isBuffer (s : State) {a : Word} (heven : a.toNat % 2 = 0) (h : isBuffer a.toNat = true)
    (v : Word) :
    perform (.write16 a v) s = .next ((s.writeBytes a.toNat [lowByte v, highByte v]).answer .ok) := by
  rw [perform_write16_of_ne (ne_zero_of_isBuffer h), s.busWrite16_of_isBuffer heven h, State.answerWrite]

theorem Mem.get_put_singleton (m : Mem) (a : Nat) (b : Byte) : (m.put a [b]).get a = b := by simp [Mem.get_put]

theorem Mem.get_put_pair_fst (m : Mem) (a : Nat) (b0 b1 : Byte) : (m.put a [b0, b1]).get a = b0 := by
  simp [Mem.get_put]

theorem Mem.get_put_pair_snd (m : Mem) (a : Nat) (b0 b1 : Byte) : (m.put a [b0, b1]).get (a + 1) = b1 := by
  simp [Mem.get_put]

/-- A string stored touches its own addresses alone. -/
theorem Mem.sameOutside_put (m : Mem) (a : Nat) (bs : List Byte) : SameOutside m (m.put a bs) [(a, bs.length)] := by
  intro x hx
  have hout := hx (a, bs.length) List.mem_cons_self
  exact m.get_put_out a bs x (by omega)

/-- Settles O23: the bytes read back and the frame of the storage; no case of it asks for `ERR`. -/
theorem bufferWritesStoreTheirBytes : Obligations.BufferWritesStoreTheirBytes := by
  intro s a b v h
  constructor
  · exact ⟨_, perform_write8_of_isBuffer s h b, s.mem.get_put_singleton _ _, s.mem.sameOutside_put _ _⟩
  · intro heven
    exact ⟨_, perform_write16_of_isBuffer s heven h v, s.mem.get_put_pair_fst _ _ _, s.mem.get_put_pair_snd _ _ _,
      s.mem.sameOutside_put _ _⟩

/-- The upper address of an aligned pair does not wrap to 0x0000 (R60, R65). -/
theorem toNat_add_one_of_even {a : Word} (heven : a.toNat % 2 = 0) : (a + 1).toNat = a.toNat + 1 := by
  bv_omega

/-- Settles O24: the transactions at a mapped pair, by read after write. -/
theorem bufferAccessIsLittleEndian : Obligations.BufferAccessIsLittleEndian := by
  intro s a v b0 b1 h heven
  have hsucc := toNat_add_one_of_even heven
  have h' : isBuffer (a + 1).toNat = true :=
    hsucc ▸ isBuffer_succ_of_even ((isOdd_eq_false_iff _).2 heven) h
  constructor
  · refine ⟨_, perform_write16_of_isBuffer s heven h v, ?_, ?_, ?_⟩
    · rw [State.busRead8_of_isBuffer _ h, State.answer_mem, State.writeBytes_mem, Mem.get_put_pair_fst,
        lowByte_eq_extractLsb']
    · rw [State.busRead8_of_isBuffer _ h', State.answer_mem, State.writeBytes_mem, hsucc, Mem.get_put_pair_snd,
        highByte_eq_extractLsb']
    · rw [State.busRead16_of_isBuffer _ heven h, State.answer_mem, State.writeBytes_mem, Mem.get_put_pair_fst,
        Mem.get_put_pair_snd, joinBytes_lowByte_highByte]
  · refine ⟨_, _, perform_write8_of_isBuffer s h b0, perform_write8_of_isBuffer _ h' b1, ?_⟩
    have hlow : ((s.mem.put a.toNat [b0]).put (a.toNat + 1) [b1]).get a.toNat = b0 := by
      rw [Mem.get_put_out _ _ _ _ (.inl (Nat.lt_succ_self _)), Mem.get_put_singleton]
    have hread := State.busRead16_of_isBuffer
      ((((s.writeBytes a.toNat [b0]).answer .ok).writeBytes (a + 1).toNat [b1]).answer .ok) heven h
    simp only [State.answer_mem, State.writeBytes_mem, hsucc, hlow, Mem.get_put_singleton] at hread
    rw [hsucc, hread, joinBytes]
    congr 2
    ring

/-! #### Commands

A write to `CMD` is the issue of its word. What becomes of the word in `CMD` is said for each effect, then for every
command and every word. -/

/-- Settles O5: a step on a `CMD` write is the issue of the word, and that of a legal word its command. -/
theorem stepRunsDecodedCommand : Obligations.StepRunsDecodedCommand := by
  intro s w i rest hp hd
  rw [step_action s _ rest hp, perform_command, issue_of_decode w _ i hd]
  rfl

/-- The effect of a command leaves the command word, where it succeeds. -/
def EffectKeepsCmd (body : State → Result State) : Prop := ∀ s t, body s = .ok t → t.cmd = s.cmd

theorem effectKeepsCmd_ok {f : State → State} (hf : ∀ s : State, (f s).cmd = s.cmd) :
    EffectKeepsCmd (fun s => .ok (f s)) := by
  intro s t h
  cases h
  exact hf s

theorem loadBlock_keepsCmd (i : Nat) : EffectKeepsCmd (loadBlock i) := by
  intro s t h
  obtain ⟨-, rfl⟩ := (loadBlock_ok_iff i s t).1 h
  rfl

theorem padBlock_keepsCmd : EffectKeepsCmd padBlock := by
  intro s t h
  obtain ⟨-, rfl⟩ := (padBlock_ok_iff s t).1 h
  rfl

theorem saltBlock_keepsCmd : EffectKeepsCmd saltBlock := by
  intro s t h
  obtain ⟨-, -, rfl⟩ := (saltBlock_ok_iff s t).1 h
  rfl

theorem hashBlock_keepsCmd (k : Nat) : EffectKeepsCmd (hashBlock k) := by
  intro s t h
  obtain ⟨-, -, rfl⟩ := (hashBlock_ok_iff k s t).1 h
  rfl

theorem emitBlock_keepsCmd (i : Nat) : EffectKeepsCmd (emitBlock i) := by
  intro s t h
  obtain ⟨-, rfl⟩ := (emitBlock_ok_iff i s t).1 h
  rfl

theorem splitMessage_keepsCmd (dir : Bool) : EffectKeepsCmd (splitMessage dir) := by
  intro s t h
  obtain ⟨-, rfl⟩ := (splitMessage_ok_iff dir s t).1 h
  rfl

theorem applyFunction_keepsCmd (k : Nat) : EffectKeepsCmd (applyFunction k) := by
  intro s t h
  obtain ⟨m, f, b, rfl⟩ := applyFunction_shape k s t h
  rfl

theorem xorLeft_keepsCmd : EffectKeepsCmd xorLeft := by
  intro s t h
  obtain ⟨-, rfl⟩ := (xorLeft_ok_iff s t).1 h
  rfl

theorem oneRound_keepsCmd : EffectKeepsCmd oneRound := by
  intro s t h
  obtain ⟨m, f, b, rfl⟩ := oneRound_shape s t h
  rfl

theorem swapHalves_cmd (s : State) : (swapHalves s).cmd = s.cmd := rfl

theorem joinHalves_cmd (s : State) : (joinHalves s).cmd = s.cmd := rfl

theorem stripOutput_cmd (oob odd : Bool) (s : State) : (stripOutput oob odd s).cmd = s.cmd := by
  obtain ⟨-, h⟩ | ⟨-, h⟩ := stripOutput_cases oob odd s
  · rw [h]; rfl
  · rw [h]; rfl

theorem runJob_keepsCmd (dir : Bool) : EffectKeepsCmd (runJob dir) := by
  intro s t h
  obtain ⟨-, u, v, hsplit, hrounds, rfl⟩ := (runJob_ok_iff dir s t).1 h
  obtain ⟨m, f, b, r, rfl⟩ := manyRounds_shape _ u v hrounds
  exact splitMessage_keepsCmd dir s u hsplit

theorem decodeJob_keepsCmd (oob odd : Bool) : EffectKeepsCmd (decodeJob oob odd) := by
  intro s t h
  obtain ⟨u, hjob, rfl⟩ := (decodeJob_ok_iff oob odd s t).1 h
  exact (stripOutput_cmd oob odd u).trans (runJob_keepsCmd true s u hjob)

/-- Refused, done or failed, a gated command answers a next state and leaves the command word (R270, R271). -/
theorem runCommand_keepsCmd {body : State → Result State} (hbody : EffectKeepsCmd body) (s : State) :
    ∃ t, runCommand s body = .next t ∧ t.cmd = s.cmd := by
  cases herr : s.err with
  | true => exact ⟨s, runCommand_refused s body herr, rfl⟩
  | false =>
    cases hb : body s with
    | ok t => exact ⟨t, runCommand_of_ok s body t herr hb, hbody s t hb⟩
    | error e => exact ⟨s.fail e, runCommand_of_error s body e herr hb, rfl⟩

/-- Every command answers a next state, and only SRESET, which clears it, does not leave the command word (R38,
R222). -/
theorem exec_cmd (i : Instr) (s : State) :
    ∃ t, exec i s = .next t ∧ t.cmd = if i = .sreset then 0 else s.cmd := by
  cases i with
  | nop => exact ⟨_, rfl, rfl⟩
  | clrerr => exact ⟨_, rfl, rfl⟩
  | sreset => exact ⟨_, rfl, rfl⟩
  | split dir => exact runCommand_keepsCmd (splitMessage_keepsCmd dir) s
  | fapply k => exact runCommand_keepsCmd (applyFunction_keepsCmd k) s
  | xorl => exact runCommand_keepsCmd xorLeft_keepsCmd s
  | swap => exact runCommand_keepsCmd (effectKeepsCmd_ok swapHalves_cmd) s
  | round => exact runCommand_keepsCmd oneRound_keepsCmd s
  | join => exact runCommand_keepsCmd (effectKeepsCmd_ok joinHalves_cmd) s
  | stripH => exact runCommand_keepsCmd (effectKeepsCmd_ok (stripOutput_cmd false false)) s
  | stripE => exact runCommand_keepsCmd (effectKeepsCmd_ok (stripOutput_cmd true false)) s
  | stripO => exact runCommand_keepsCmd (effectKeepsCmd_ok (stripOutput_cmd true true)) s
  | blkload b => exact runCommand_keepsCmd (loadBlock_keepsCmd b) s
  | blkpad => exact runCommand_keepsCmd padBlock_keepsCmd s
  | salt => exact runCommand_keepsCmd saltBlock_keepsCmd s
  | hash k => exact runCommand_keepsCmd (hashBlock_keepsCmd k) s
  | emit b => exact runCommand_keepsCmd (emitBlock_keepsCmd b) s
  | encode => exact runCommand_keepsCmd (runJob_keepsCmd false) s
  | decodeH => exact runCommand_keepsCmd (decodeJob_keepsCmd false false) s
  | decodeE => exact runCommand_keepsCmd (decodeJob_keepsCmd true false) s
  | decodeO => exact runCommand_keepsCmd (decodeJob_keepsCmd true true) s

/-- A word that decodes fits a row of the opcode map, which builds its command (R93). -/
theorem exists_row_of_decode {w : Word} {i : Instr} (h : decode w = .ok i) :
    ∃ r ∈ opRows, w &&& r.mask = r.value ∧ r.build w = i := by
  unfold decode at h
  split at h
  · next r hr =>
    exact ⟨r, List.mem_of_find?_eq_some hr, by simpa using List.find?_some hr, Except.ok.inj h⟩
  · cases h

/-- SRESET has one word (R93). -/
theorem decode_eq_sreset_iff (w : Word) : decode w = .ok .sreset ↔ w = 0x0200 := by
  constructor
  · intro h
    have hrow : ∀ r ∈ opRows, r.build w = .sreset → r.mask = BitVec.allOnes 16 ∧ r.value = 0x0200 := by
      simp [opRows]
    obtain ⟨r, hr, hfits, hbuild⟩ := exists_row_of_decode h
    obtain ⟨hmask, hvalue⟩ := hrow r hr hbuild
    rwa [hmask, hvalue, BitVec.and_allOnes] at hfits
  · rintro rfl
    rfl

/-- Issuing a word answers a next state in every case, and the word stands in `CMD` unless it is SRESET's (R38,
R72). -/
theorem issue_cmd (w : Word) (s : State) :
    ∃ t, issue w s = .next t ∧ t.cmd = if w = 0x0200 then 0 else w := by
  cases hd : decode w with
  | ok i =>
    obtain ⟨t, ht, hcmd⟩ := exec_cmd i (s.setCmd w)
    have hword : i = .sreset ↔ w = 0x0200 := by rw [← decode_eq_sreset_iff, hd, Except.ok.injEq]
    refine ⟨t, (issue_of_decode w s i hd).trans ht, ?_⟩
    simpa only [hword, State.setCmd_cmd] using hcmd
  | error e =>
    have hword : w ≠ 0x0200 := fun h => by rw [(decode_eq_sreset_iff w).2 h] at hd; cases hd
    obtain ⟨t, ht, hcmd⟩ :=
      runCommand_keepsCmd (body := fun _ => .error (.illegalCommand w)) (fun _ _ h => nomatch h) (s.setCmd w)
    exact ⟨t, (issue_of_illegal w s e hd).trans ht, hcmd.trans (if_neg hword).symm⟩

/-- Settles O25: the word as its issue leaves it, the answer and the plans as commands leave them. -/
theorem commandWritesAreAnsweredOk : Obligations.CommandWritesAreAnsweredOk := by
  intro s w rest hp
  obtain ⟨t, ht, hcmd⟩ := issue_cmd w ((s.setPending rest).answer .ok)
  have hframe := issue_frameKept w _ t ht
  refine ⟨t, ?_, hframe.answers, hframe.pending, hcmd⟩
  rw [step_action s _ rest hp, perform_command, ht]

/-! #### Bus errors

What a write is answered, and what the answer `ERR` says of the state. -/

/-- A write adds one response to the answers: `ERR` where it has no effect, else `OK` (R62, R73). -/
theorem State.answerWrite_outcome (s : State) {r : Option State} (hr : ∀ t, r = some t → s.FrameKept t) :
    (r = none ∧ s.answerWrite r = s.answer .err) ∨
      (r ≠ none ∧ (s.answerWrite r).answers = .ok :: s.answers) := by
  obtain ⟨t, ht, heq⟩ | hnone := s.answerWrite_cases r
  · refine .inr ⟨by simp [ht], ?_⟩
    rw [heq, State.answer_answers, (hr t ht).answers]
  · exact .inl hnone

/-- A write answered `ERR` left the state (R73). -/
theorem State.answerWrite_eq_of_err (s : State) {r : Option State} (hr : ∀ t, r = some t → s.FrameKept t)
    (h : (s.answerWrite r).answers = .err :: s.answers) : s.answerWrite r = s.answer .err := by
  obtain ⟨-, heq⟩ | ⟨-, hok⟩ := s.answerWrite_outcome hr
  · exact heq
  · rw [hok] at h
    cases h

/-- No host action that is answered `ERR` does anything else (R73). -/
theorem perform_eq_of_err (act : HostAction) (s t : State) (h : perform act s = .next t)
    (herr : t.answers = .err :: s.answers) : t = s.answer .err := by
  cases act with
  | read8 a => cases h; rw [(List.cons.inj herr).1]
  | read16 a => cases h; rw [(List.cons.inj herr).1]
  | write8 a v => cases h; exact s.answerWrite_eq_of_err (fun u hu => s.busWrite8_frameKept u a v hu) herr
  | write16 a v =>
    by_cases ha : a = 0
    · subst ha
      rw [perform_command] at h
      have hok := (issue_frameKept v _ t h).answers
      rw [hok] at herr
      cases herr
    · rw [perform_write16_of_ne ha] at h
      cases h
      exact s.answerWrite_eq_of_err (fun u hu => s.busWrite16_frameKept u a v hu) herr
  | hardReset straps kh image => cases h; exact absurd herr.symm (List.cons_ne_self _ _)

/-- Settles O21: a step with an action pending is that action. -/
theorem busErrorChangesNothing : Obligations.BusErrorChangesNothing := by
  intro s t act rest hp h herr
  rw [step_action s act rest hp] at h
  exact perform_eq_of_err act (s.setPending rest) t h herr

/-- Which 2-byte writes the bus refuses (R65, R66, R68, R69, R70). -/
abbrev Refused16 (a v : Word) : Prop :=
  a.toNat % 2 = 1 ∨ reservedAddr a.toNat = true ∨
    a = 0x02 ∨ a = 0x04 ∨ a = 0x06 ∨ a = 0x12 ∨ a = 0x16 ∨
    ((a = 0x08 ∨ a = 0x0A) ∧ 4096 < v.toNat) ∨ ((a = 0x0C ∨ a = 0x0E) ∧ 2048 < v.toNat) ∨
    (a = 0x10 ∧ 32 < v.toNat) ∨ (a = 0x14 ∧ 127 < v.toNat)

/-- A control register other than `CMD` refuses every value or those above its maximum (R69, R70). -/
theorem State.ctrlWrite_eq_none_iff (s : State) {a v : Word} (ha : a ≠ 0) {r : CtrlReg} (haddr : a.toNat = r.addr) :
    s.ctrlWrite r v = none ↔ Refused16 a v := by
  obtain rfl : a = BitVec.ofNat 16 r.addr := by rw [← haddr, BitVec.ofNat_toNat, BitVec.setWidth_eq]
  cases r with
  | cmd => exact absurd rfl ha
  | status | errcode | errinfo | rnd | cfgr => simp [State.ctrlWrite, Refused16, CtrlReg.addr]
  | msgLen | outLen | hlen | flen | nkeys | blkLen =>
    simp [State.ctrlWrite, checked_eq_none_iff, Refused16, CtrlReg.addr, reservedAddr]

theorem State.busWrite16_eq_none_iff (s : State) {a : Word} (ha : a ≠ 0) (v : Word) :
    s.busWrite16 a v = none ↔ Refused16 a v := by
  obtain hodd | hres | ⟨r, hr⟩ | ⟨heven, hbuffer⟩ := addr16_cases a.toNat
  · exact iff_of_true (s.busWrite16_of_odd hodd v) (.inl hodd)
  · exact iff_of_true (s.busWrite16_of_reserved hres v) (.inr (.inl hres))
  · rw [s.busWrite16_of_addr hr, s.ctrlWrite_eq_none_iff ha hr]
  · refine iff_of_false (by simp [s.busWrite16_of_isBuffer heven hbuffer]) ?_
    rw [isBuffer_iff] at hbuffer
    rw [Refused16, reservedAddr_iff]
    simp only [BitVec.toNat_eq, BitVec.ofNat_eq_ofNat, BitVec.toNat_ofNat]
    omega

/-- A write does nothing and is answered `ERR` where it is refused, and is answered `OK` elsewhere (R62). -/
theorem perform_write_err_or_ok (s : State) {r : Option State} (hr : ∀ t, r = some t → s.FrameKept t) {P : Prop}
    [Decidable P] (hP : r = none ↔ P) {act : HostAction} (hact : perform act s = .next (s.answerWrite r)) :
    if P then perform act s = .next { s with answers := .err :: s.answers }
    else ∃ t, perform act s = .next t ∧ t.answers = .ok :: s.answers := by
  obtain ⟨hnone, heq⟩ | ⟨hsome, hok⟩ := s.answerWrite_outcome hr
  · rw [if_pos (hP.1 hnone), hact, heq]
    rfl
  · rw [if_neg (mt hP.2 hsome)]
    exact ⟨_, hact, hok⟩

/-- Settles O20: at `CMD` by the issue of the word, at every other address by what the bus refuses. -/
theorem writeErrorsExactly : Obligations.WriteErrorsExactly := by
  intro s a v b
  constructor
  · exact perform_write_err_or_ok s (fun t ht => s.busWrite8_frameKept t a b ht)
      ((s.busWrite8_eq_none_iff a b).trans (isBuffer_eq_false_iff _)) rfl
  · by_cases ha : a = 0
    · subst ha
      obtain ⟨t, ht, -⟩ := issue_cmd v (s.answer .ok)
      rw [if_neg (by simp [reservedAddr]), perform_command]
      exact ⟨t, ht, (issue_frameKept v _ t ht).answers⟩
    · exact perform_write_err_or_ok s (fun t ht => s.busWrite16_frameKept t a v ht) (s.busWrite16_eq_none_iff ha v)
        (perform_write16_of_ne ha v s)

end Sys2Proof.Machine

namespace Sys2Proof

open Machine
open Laws.EncodeIsLegal (operand_bound cmdWord_toNat)

/-! ### The opcode map

The obligations of 30_encoding.md, O1 to O4. The table of R93 holds three kinds of rows: the word of one
command, the two words of SPLIT, and the 256 words of a command with an operand. Which words fit a row is said once
per kind; that no word fits two rows, and that each row's words are those of the commands it builds, make the decoder
and the encoder inverse to each other. -/

/-! #### The fields of a word -/

theorem opcField_eq_div (w : Word) : opcField w = w.toNat / 256 := by
  rw [opcField, BitVec.toNat_ushiftRight, Nat.shiftRight_eq_div_pow]

theorem argField_eq_mod (w : Word) : argField w = w.toNat % 256 := by
  rw [argField, BitVec.toNat_and]
  exact Nat.and_two_pow_sub_one_eq_mod w.toNat 8

theorem argField_lt (w : Word) : argField w < 256 := by
  rw [argField_eq_mod]
  exact Nat.mod_lt _ (by decide)

/-- A word is its two fields (R91, R97). -/
theorem cmdWord_opcField_argField (w : Word) : cmdWord (opcField w) (argField w) = w := by
  rw [opcField_eq_div, argField_eq_mod, cmdWord, Nat.div_add_mod', BitVec.ofNat_toNat, BitVec.setWidth_eq]

theorem opcField_cmdWord {opc n : Nat} (ho : opc < 256) (hn : n < 256) : opcField (cmdWord opc n) = opc := by
  rw [opcField_eq_div, cmdWord_toNat opc n ho hn]
  omega

theorem argField_cmdWord {opc n : Nat} (ho : opc < 256) (hn : n < 256) : argField (cmdWord opc n) = n := by
  rw [argField_eq_mod, cmdWord_toNat opc n ho hn]
  omega

/-- A mask that clears the lowest `k` bits rounds down to a multiple of `2 ^ k`. -/
theorem toNat_and_highMask (w : Word) (k : Nat) :
    (w &&& BitVec.allOnes 16 <<< k).toNat = w.toNat / 2 ^ k * 2 ^ k := by
  have hle : w.toNat / 2 ^ k * 2 ^ k < 2 ^ 16 := (Nat.div_mul_le_self _ _).trans_lt w.isLt
  rw [← BitVec.shiftLeft_ushiftRight, BitVec.toNat_shiftLeft, BitVec.toNat_ushiftRight, Nat.shiftLeft_eq,
    Nat.shiftRight_eq_div_pow, Nat.mod_eq_of_lt hle]

theorem opcField_eq_iff (w : Word) (opc : Nat) :
    opcField w = opc ↔ opc * 256 ≤ w.toNat ∧ w.toNat ≤ opc * 256 + 255 := by
  rw [opcField_eq_div]
  omega

/-! #### The rows -/

/-- The word `w` fits the row (R93). -/
def OpRow.Fits (r : OpRow) (w : Word) : Prop := w &&& r.mask = r.value

/-- The row of a command that has one word. -/
def wordRow (i : Instr) : OpRow := ⟨0xFFFF#16, encode i, fun _ => i⟩

/-- The row of a command with an operand in `ARG`. -/
def operandRow (opc : Nat) (c : Nat → Instr) : OpRow := ⟨0xFF00#16, cmdWord opc 0, fun w => c (argField w)⟩

/-- The row of SPLIT. -/
def splitRow : OpRow := ⟨0xFFFE#16, cmdWord 0x10 0, fun w => .split (dirField w)⟩

/-- The opcode map by the kinds of its rows. -/
theorem opRows_eq : opRows =
    [wordRow .nop, wordRow .clrerr, wordRow .sreset, splitRow, operandRow 0x11 .fapply, wordRow .xorl,
      wordRow .swap, wordRow .round, wordRow .join, wordRow .stripH, wordRow .stripE, wordRow .stripO,
      operandRow 0x20 .blkload, wordRow .blkpad, wordRow .salt, operandRow 0x23 .hash, operandRow 0x24 .emit,
      wordRow .encode, wordRow .decodeH, wordRow .decodeE, wordRow .decodeO] := rfl

theorem wordRow_fits_iff (i : Instr) (w : Word) : (wordRow i).Fits w ↔ w = encode i := by
  have hmask : w &&& 0xFFFF#16 = w := BitVec.and_allOnes
  rw [OpRow.Fits, wordRow, hmask]

theorem operandRow_fits_iff {opc : Nat} (ho : opc < 256) (c : Nat → Instr) (w : Word) :
    (operandRow opc c).Fits w ↔ opcField w = opc := by
  have hand : (w &&& 0xFF00#16).toNat = w.toNat / 256 * 256 := toNat_and_highMask w 8
  rw [OpRow.Fits, operandRow, ← BitVec.toNat_inj, hand, cmdWord_toNat opc 0 ho (by decide), opcField_eq_div]
  omega

theorem splitRow_fits_iff (w : Word) :
    splitRow.Fits w ↔ w = encode (.split false) ∨ w = encode (.split true) := by
  have hand : (w &&& 0xFFFE#16).toNat = w.toNat / 2 * 2 := toNat_and_highMask w 1
  have hfalse : (encode (.split false)).toNat = 0x1000 := rfl
  have htrue : (encode (.split true)).toNat = 0x1001 := rfl
  rw [OpRow.Fits, splitRow, ← BitVec.toNat_inj, hand, cmdWord_toNat 0x10 0 (by decide) (by decide),
    ← BitVec.toNat_inj, ← BitVec.toNat_inj, hfalse, htrue]
  omega

/-- Of the bits both rows look at, one differs in their values. -/
def OpRow.Excludes (r r' : OpRow) : Prop := r.value &&& r'.mask ≠ r'.value &&& r.mask

theorem OpRow.Excludes.symm : Std.Symm OpRow.Excludes := ⟨fun _ _ => Ne.symm⟩

theorem OpRow.Excludes.not_fits {r r' : OpRow} {w : Word} (hne : r.Excludes r') (h : r.Fits w) : ¬ r'.Fits w := by
  intro h'
  apply hne
  rw [← show w &&& r.mask = r.value from h, ← show w &&& r'.mask = r'.value from h', BitVec.and_assoc,
    BitVec.and_assoc, BitVec.and_comm r.mask]

theorem opRows_exclude : opRows.Pairwise OpRow.Excludes := by
  unfold OpRow.Excludes
  decide

/-- No word fits two rows of the opcode map. -/
theorem row_unique {r r' : OpRow} {w : Word} (hr : r ∈ opRows) (hr' : r' ∈ opRows) (h : r.Fits w)
    (h' : r'.Fits w) : r = r' := by
  have hsymm := OpRow.Excludes.symm
  by_contra hne
  exact (opRows_exclude.forall hr hr' hne).not_fits h h'

/-! #### The decoder by rows -/

/-- The decoder finds the row a word fits, wherever in the table it stands. -/
theorem decode_of_row {r : OpRow} {w : Word} (hr : r ∈ opRows) (h : r.Fits w) : decode w = .ok (r.build w) := by
  cases hfind : opRows.find? (fun r => w &&& r.mask == r.value) with
  | none => exact absurd (beq_iff_eq.2 h) (List.find?_eq_none.1 hfind r hr)
  | some r' =>
    have hbeq := List.find?_some hfind
    have hsame : r' = r := row_unique (List.mem_of_find?_eq_some hfind) hr (beq_iff_eq.1 hbeq) h
    rw [decode, hfind, hsame]

theorem decode_operandWord {opc n : Nat} {c : Nat → Instr} (hrow : operandRow opc c ∈ opRows) (ho : opc < 256)
    (hn : argFits n = true) : decode (cmdWord opc n) = .ok (c n) := by
  have hbound := operand_bound hn
  have hfits := (operandRow_fits_iff ho c _).2 (opcField_cmdWord ho hbound)
  calc decode (cmdWord opc n) = .ok (c (argField (cmdWord opc n))) := decode_of_row hrow hfits
    _ = .ok (c n) := by rw [argField_cmdWord ho hbound]

/-- Settles O1, by the constructors: a command with one word by evaluation, one with an operand by its row. -/
theorem decodeOfEncode : Obligations.DecodeOfEncode := by
  intro i hwf
  cases i with
  | nop | clrerr | sreset | xorl | swap | round | join | stripH | stripE | stripO => rfl
  | blkpad | salt | encode | decodeH | decodeE | decodeO => rfl
  | split dir => cases dir <;> rfl
  | fapply k => exact decode_operandWord (by simp [opRows_eq]) (by decide) hwf
  | blkload i => exact decode_operandWord (by simp [opRows_eq]) (by decide) hwf
  | hash k => exact decode_operandWord (by simp [opRows_eq]) (by decide) hwf
  | emit i => exact decode_operandWord (by simp [opRows_eq]) (by decide) hwf

/-! #### The encoder by rows -/

/-- A word that fits the row is the word of the well-formed command the row builds. -/
def OpRow.Faithful (r : OpRow) : Prop := ∀ w, r.Fits w → (r.build w).wellFormed = true ∧ encode (r.build w) = w

theorem wordRow_faithful_iff (i : Instr) : (wordRow i).Faithful ↔ i.wellFormed = true :=
  ⟨fun h => (h (encode i) ((wordRow_fits_iff i _).2 rfl)).1,
    fun hwf w h => ⟨hwf, ((wordRow_fits_iff i w).1 h).symm⟩⟩

theorem splitRow_faithful : splitRow.Faithful := by
  intro w h
  obtain rfl | rfl := (splitRow_fits_iff w).1 h
  · exact ⟨rfl, rfl⟩
  · exact ⟨rfl, rfl⟩

theorem operandRow_faithful {opc : Nat} {c : Nat → Instr} (ho : opc < 256)
    (hwf : ∀ n, (c n).wellFormed = argFits n) (henc : ∀ n, encode (c n) = cmdWord opc n) :
    (operandRow opc c).Faithful := by
  intro w h
  rw [operandRow_fits_iff ho] at h
  refine ⟨(hwf _).trans (decide_eq_true (argField_lt w)), (henc _).trans ?_⟩
  rw [← h, cmdWord_opcField_argField]

/-- The encoder agrees with every row of the opcode map. -/
theorem opRows_faithful : ∀ r ∈ opRows, r.Faithful := by
  have hfapply := operandRow_faithful (opc := 0x11) (c := .fapply) (by decide) (fun _ => rfl) (fun _ => rfl)
  have hblkload := operandRow_faithful (opc := 0x20) (c := .blkload) (by decide) (fun _ => rfl) (fun _ => rfl)
  have hhash := operandRow_faithful (opc := 0x23) (c := .hash) (by decide) (fun _ => rfl) (fun _ => rfl)
  have hemit := operandRow_faithful (opc := 0x24) (c := .emit) (by decide) (fun _ => rfl) (fun _ => rfl)
  simp [opRows_eq, wordRow_faithful_iff, splitRow_faithful, hfapply, hblkload, hhash, hemit, Instr.wellFormed]

/-- Settles O2: the word fits a row of the map, and every row is faithful. -/
theorem decodedWordEncodesBack : Obligations.DecodedWordEncodesBack := by
  intro w i h
  obtain ⟨r, hr, hfits, rfl⟩ := exists_row_of_decode h
  exact opRows_faithful r hr w hfits

/-! #### The legal words -/

/-- The legal words are those that fit a row of the opcode map (R95). -/
theorem legalWord_iff_fits (w : Word) : legalWord w = true ↔ ∃ r ∈ opRows, r.Fits w := by
  simp [legalWord, opRows_eq, wordRow_fits_iff, operandRow_fits_iff, splitRow_fits_iff, opcField_eq_iff,
    ← BitVec.toNat_inj, encode, cmdWord, or_assoc]

theorem legalWord_iff_decode (w : Word) : legalWord w = true ↔ ∃ i, decode w = .ok i := by
  rw [legalWord_iff_fits]
  constructor
  · rintro ⟨r, hr, hfits⟩
    exact ⟨_, decode_of_row hr hfits⟩
  · rintro ⟨i, h⟩
    obtain ⟨r, hr, hfits, -⟩ := exists_row_of_decode h
    exact ⟨r, hr, hfits⟩

/-- The one way to be no command (R95). -/
theorem eq_illegalCommand_of_decode {w : Word} {e : DecodeError} (h : decode w = .error e) :
    e = .illegalCommand w := by
  unfold decode at h
  split at h
  · cases h
  · exact (Except.error.inj h).symm

theorem decode_of_not_legal {w : Word} (h : legalWord w = false) : decode w = .error (.illegalCommand w) := by
  cases hd : decode w with
  | ok i => rw [(legalWord_iff_decode w).2 ⟨i, hd⟩] at h; cases h
  | error e => rw [eq_illegalCommand_of_decode hd]

/-- Settles O3: the legal words are those that decode, and the issue of any other fails or is refused. -/
theorem illegalWordsRecordedOrRefused : Obligations.IllegalWordsRecordedOrRefused := by
  intro w
  refine ⟨(legalWord_iff_decode w).1, fun hlegal => ?_⟩
  have hd := decode_of_not_legal hlegal
  refine ⟨hd, fun s => ⟨fun herr => ?_, fun herr => ?_⟩⟩
  · rw [issue_of_illegal w s _ hd]
    exact runCommand_of_error (s.setCmd w) _ (.illegalCommand w) herr rfl
  · rw [issue_of_illegal w s _ hd]
    exact runCommand_refused (s.setCmd w) _ herr

/-- Settles O4: the decoder evaluated on each word. -/
theorem sampleWordsDecode : Obligations.SampleWordsDecode :=
  ⟨rfl, rfl, rfl, rfl, rfl, rfl, rfl⟩

end Sys2Proof

namespace Sys2Proof.Machine

/-! ### The function units

The obligations O28 to O33 (40_function_units.md R114 to R142). First each unit by itself: when it fails, and what it
gives where it does not. -/

theorem isOdd_eq_decide (n : Nat) : isOdd n = decide (n % 2 = 1) := rfl

theorem isOdd_two_mul (n : Nat) : isOdd (2 * n) = false := by
  rw [isOdd_eq_false_iff]
  omega

namespace Units

/-! #### Splitter -/

/-- A message with the pad bytes `split` appends to it: none or one (R115). -/
def evened (c : Byte) (m : List Byte) : List Byte := m ++ List.replicate (isOdd m.length).toNat c

theorem evened_of_even {m : List Byte} (h : isOdd m.length = false) (c : Byte) : evened c m = m := by
  simp [evened, h]

theorem evened_of_odd {m : List Byte} (h : isOdd m.length = true) (c : Byte) : evened c m = m ++ [c] := by
  simp [evened, h]

@[simp] theorem evened_length (c : Byte) (m : List Byte) : (evened c m).length = 2 * halfUp m.length := by
  cases h : isOdd m.length with
  | false =>
    rw [evened_of_even h, halfUp]
    rw [isOdd_eq_false_iff] at h
    omega
  | true =>
    rw [evened_of_odd h, List.length_append, List.length_singleton, halfUp]
    rw [isOdd_iff] at h
    omega

/-- The split cuts the message, padded to even length, in the middle (R114, R115). -/
theorem split_of_two_le {m : List Byte} (hm : 2 ≤ m.length) (c : Byte) :
    split c m = .ok ⟨(evened c m).take (halfUp m.length), (evened c m).drop (halfUp m.length), isOdd m.length⟩ := by
  have hle : halfUp m.length ≤ m.length := by rw [halfUp]; omega
  have htail : List.replicate (isOdd m.length).toNat c = if isOdd m.length then [c] else [] := by
    cases isOdd m.length <;> rfl
  rw [split, if_neg (not_lt.2 hm), evened, List.take_append_of_le_length hle, List.drop_append_of_le_length hle, htail]

/-- A string of two equal halves is cut into these. -/
theorem split_append {l r : List Byte} (hlen : l.length = r.length) (hl : 1 ≤ l.length) (c : Byte) :
    split c (l ++ r) = .ok ⟨l, r, false⟩ := by
  have htwo : (l ++ r).length = 2 * l.length := by rw [List.length_append]; omega
  have hodd : isOdd (l ++ r).length = false := by rw [htwo, isOdd_two_mul]
  have hhalf : halfUp (l ++ r).length = l.length := by rw [htwo, halfUp]; omega
  rw [split_of_two_le (by omega), evened_of_even hodd, hhalf, hodd, List.take_left, List.drop_left]

/-! #### Padder and salt derivation -/

theorem pad_of_fits {b : List Byte} {n : Nat} (hb : 1 ≤ b.length) (hn : b.length ≤ n) (c : Byte) :
    pad b n c = .ok (b ++ List.replicate (n - b.length) c) := if_neg (by omega)

theorem pad_of_not_fits {b : List Byte} {n : Nat} (h : b.length = 0 ∨ n < b.length) (c : Byte) :
    pad b n c = .error (.badPadTarget b.length) := if_pos h

theorem deriveSalt_of_badBlock (kh : Kh) (st : Straps) {b : List Byte} (hb : b.length ≠ 64) :
    deriveSalt kh st b = .error (.badBlockSize b.length) := if_pos hb

theorem deriveSalt_of_block (kh : Kh) (st : Straps) {b : List Byte} (hb : b.length = 64) :
    deriveSalt kh st b =
      if secretLegal st then .ok (kh (secretBytes st) [] 16 b).toList
      else .error (.badSecretLength st.secretLen.toNat) := if_neg (not_not.2 hb)

/-! #### Combiner -/

theorem xor_of_length_eq {a b : List Byte} (h : a.length = b.length) : xor a b = .ok (xorBytes a b) := if_pos h

theorem xor_of_length_ne {a b : List Byte} (h : a.length ≠ b.length) : xor a b = .error (.lengthMismatch b.length) :=
  if_neg h

theorem xor_ok_iff (a b c : List Byte) : xor a b = .ok c ↔ a.length = b.length ∧ c = xorBytes a b := by
  by_cases h : a.length = b.length
  · simp [xor_of_length_eq h, h, eq_comm]
  · simp [xor_of_length_ne h, h]

@[simp] theorem xorBytes_length (a b : List Byte) : (xorBytes a b).length = min a.length b.length :=
  List.length_zipWith

@[simp] theorem getElem_xorBytes (a b : List Byte) (j : Nat) (h : j < (xorBytes a b).length) :
    (xorBytes a b)[j] = a[j]'(by rw [xorBytes_length] at h; omega) ^^^ b[j]'(by rw [xorBytes_length] at h; omega) :=
  List.getElem_zipWith

theorem xorBytes_comm (a b : List Byte) : xorBytes a b = xorBytes b a :=
  List.zipWith_comm_of_comm BitVec.xor_comm

theorem xorBytes_assoc (a b c : List Byte) : xorBytes (xorBytes a b) c = xorBytes a (xorBytes b c) :=
  List.ext_getElem (by simp [min_assoc]) fun j _ _ => by simp [BitVec.xor_assoc]

/-- The combiner is its own inverse (R131). -/
theorem xorBytes_xorBytes_cancel {a b : List Byte} (h : a.length = b.length) : xorBytes (xorBytes a b) b = a :=
  List.ext_getElem (by simp [h]) fun j _ _ => by simp

/-! #### Round function -/

@[simp] theorem block_length (half : List Byte) (i : Nat) :
    (block half i).length = min 64 (half.length - 64 * i) := by
  simp [block]

theorem lt_blockCount_iff (n i : Nat) : i < blockCount n ↔ 64 * i < n := by
  rw [blockCount]
  omega

/-- A block filled up with the pad byte (R123). -/
def paddedBlock (st : Straps) (b : List Byte) : List Byte := b ++ List.replicate (64 - b.length) st.pad

/-- What the round function makes of one block: its digest, cut (R123 to R125). -/
def blockDigest (kh : Kh) (st : Straps) (key b : List Byte) : List Byte :=
  (kh key (kh (secretBytes st) [] 16 (paddedBlock st b)).toList 64 (paddedBlock st b)).toList.take b.length

theorem paddedBlock_length (st : Straps) {b : List Byte} (hb : b.length ≤ 64) : (paddedBlock st b).length = 64 := by
  rw [paddedBlock, List.length_append, List.length_replicate]
  omega

theorem blockDigest_length (kh : Kh) (st : Straps) (key : List Byte) {b : List Byte} (hb : b.length ≤ 64) :
    (blockDigest kh st key b).length = b.length := by
  rw [blockDigest, List.length_take, Vector.length_toList]
  omega

/-- The only thing that can go wrong with a block of 1 to 64 bytes is the Secret (R118, R125). -/
theorem blockOutput_of_block (kh : Kh) (st : Straps) (key : List Byte) {b : List Byte} (hb : 1 ≤ b.length)
    (hb' : b.length ≤ 64) :
    blockOutput kh st key b =
      if secretLegal st then .ok (blockDigest kh st key b) else .error (.badSecretLength st.secretLen.toNat) := by
  rw [blockOutput, pad_of_fits hb hb']
  change (deriveSalt kh st (paddedBlock st b) >>= _) = _
  rw [deriveSalt_of_block kh st (paddedBlock_length st hb')]
  cases secretLegal st <;> rfl

theorem blockOutputs_of_legal (kh : Kh) (st : Straps) (hst : secretLegal st = true) (key : List Byte) :
    ∀ bs : List (List Byte), (∀ b ∈ bs, 1 ≤ b.length ∧ b.length ≤ 64) →
      blockOutputs kh st key bs = .ok (bs.flatMap (blockDigest kh st key))
  | [], _ => rfl
  | b :: bs, h => by
    obtain ⟨hb, hb'⟩ := h b List.mem_cons_self
    have ih := blockOutputs_of_legal kh st hst key bs fun b hb => h b (List.mem_cons_of_mem _ hb)
    rw [blockOutputs, blockOutput_of_block kh st key hb hb', if_pos hst, ih]
    rfl

/-- The round function where its operands are legal: the blocks' outputs one after the other (R125). -/
def functionValue (kh : Kh) (st : Straps) (half key : List Byte) : List Byte :=
  (blocks half).flatMap (blockDigest kh st key)

theorem roundFunction_of_legal (kh : Kh) {st : Straps} (hst : secretLegal st = true) {half : List Byte}
    (hhalf : 1 ≤ half.length) (k : Nat) {key : List Byte} (hkey : keyLenLegal key.length = true) :
    roundFunction kh st half k key = .ok (functionValue kh st half key) := by
  rw [roundFunction, if_pos hkey, if_neg (by omega)]
  refine blockOutputs_of_legal kh st hst key _ fun b hb => ?_
  obtain ⟨i, hi, rfl⟩ := List.mem_map.1 hb
  rw [List.mem_range, lt_blockCount_iff] at hi
  rw [block_length]
  omega

/-- Strings as long as the blocks of a half, one after the other, are as long as the half up to there (R121). -/
theorem length_flatMap_of_blocks (half : List Byte) {g : List Byte → List Byte}
    (hg : ∀ i, (g (block half i)).length = (block half i).length) :
    ∀ n, (((List.range n).map (block half)).flatMap g).length = min (64 * n) half.length
  | 0 => by simp
  | n + 1 => by
    have ih := length_flatMap_of_blocks half hg n
    rw [List.range_succ, List.map_append, List.flatMap_append, List.length_append, ih]
    simp only [List.map_cons, List.map_nil, List.flatMap_singleton, hg, block_length]
    omega

/-- The digests of a half's blocks are as long as the blocks. -/
theorem blockDigest_block_length (kh : Kh) (st : Straps) (half key : List Byte) (i : Nat) :
    (blockDigest kh st key (block half i)).length = (block half i).length :=
  blockDigest_length kh st key (by rw [block_length]; omega)

/-- The round function keeps the length (R126 (a)). -/
theorem functionValue_length (kh : Kh) (st : Straps) (half key : List Byte) :
    (functionValue kh st half key).length = half.length := by
  rw [functionValue, blocks, length_flatMap_of_blocks half (blockDigest_block_length kh st half key), blockCount]
  omega

/-- Block `i` of the output is the digest of block `i` alone (R126 (c)): the blocks before it fill `64 i` bytes. -/
theorem functionValue_block (kh : Kh) (st : Straps) (half key : List Byte) {i : Nat} (hi : i < blockCount half.length) :
    block (functionValue kh st half key) i = blockDigest kh st key (block half i) := by
  have hdigest := blockDigest_block_length kh st half key
  have hbefore := length_flatMap_of_blocks half hdigest i
  have hblock := hdigest i
  have hlen := functionValue_length kh st half key
  obtain ⟨d, hd⟩ := Nat.exists_eq_add_of_lt hi
  rw [lt_blockCount_iff] at hi
  have hparts : functionValue kh st half key =
      ((List.range i).map (block half)).flatMap (blockDigest kh st key) ++
        (blockDigest kh st key (block half i) ++
          ((List.range' (i + 1) d).map (block half)).flatMap (blockDigest kh st key)) := by
    rw [functionValue, blocks, hd, show i + d + 1 = i + (d + 1) by omega, List.range_eq_range', ← List.range'_append_1]
    simp [List.range_eq_range', List.range'_succ]
  rw [hparts, List.length_append, List.length_append, hbefore, hblock, block_length] at hlen
  rw [hparts, block, List.drop_left' (by omega)]
  by_cases hfull : 64 * (i + 1) ≤ half.length
  · rw [List.take_left' (by rw [hblock, block_length]; omega)]
  · rw [List.eq_nil_of_length_eq_zero (l := List.flatMap _ _) (by omega), List.append_nil,
      List.take_of_length_le (by rw [hblock, block_length]; omega)]

/-! #### Rounds

A round exchanges the halves, so the rounds in reverse order, run on the halves exchanged, go back to where the first
began (R139). -/

theorem round_ok_iff (kh : Kh) (st : Straps) (k : Nat) (key l r : List Byte) (p : List Byte × List Byte) :
    round kh st k key l r = .ok p ↔
      ∃ f, roundFunction kh st r k key = .ok f ∧ l.length = f.length ∧ p = (r, xorBytes l f) := by
  simp only [round, bind_ok_iff, pure_ok_iff, xor_ok_iff]
  constructor
  · rintro ⟨f, hf, l', ⟨hlen, rfl⟩, rfl⟩; exact ⟨f, hf, hlen, rfl⟩
  · rintro ⟨f, hf, hlen, rfl⟩; exact ⟨f, hf, _, ⟨hlen, rfl⟩, rfl⟩

theorem round_undo {kh : Kh} {st : Straps} {k : Nat} {key l r l' r' : List Byte}
    (h : round kh st k key l r = .ok (l', r')) : round kh st k key r' l' = .ok (r, l) := by
  obtain ⟨f, hf, hlen, heq⟩ := (round_ok_iff ..).1 h
  obtain ⟨rfl, rfl⟩ := Prod.mk.inj heq
  refine (round_ok_iff ..).2 ⟨f, hf, by rw [xorBytes_length]; omega, ?_⟩
  rw [xorBytes_xorBytes_cancel hlen]

theorem rounds_append (kh : Kh) (st : Straps) (keys : List (List Byte)) (ks ks' : List Nat) :
    ∀ l r, rounds kh st keys (ks ++ ks') l r = rounds kh st keys ks l r >>= fun p => rounds kh st keys ks' p.1 p.2 := by
  induction ks with
  | nil => intro l r; rfl
  | cons k ks ih =>
    intro l r
    rw [List.cons_append, rounds, rounds, bind_assoc]
    exact bind_congr fun p => ih p.1 p.2

theorem rounds_singleton (kh : Kh) (st : Straps) (keys : List (List Byte)) (k : Nat) (l r : List Byte) :
    rounds kh st keys [k] l r = round kh st k (keys.getD k []) l r :=
  bind_pure _

theorem rounds_undo {kh : Kh} {st : Straps} {keys : List (List Byte)} {ks : List Nat} {l r l' r' : List Byte}
    (h : rounds kh st keys ks l r = .ok (l', r')) : rounds kh st keys ks.reverse r' l' = .ok (r, l) := by
  induction ks generalizing l r with
  | nil => cases h; rfl
  | cons k ks ih =>
    obtain ⟨⟨l₁, r₁⟩, hround, hrest⟩ := (bind_ok_iff _ _ _).1 h
    rw [List.reverse_cons, rounds_append, ih hrest]
    exact (rounds_singleton ..).trans (round_undo hround)

/-- Rounds on two halves of one length, under legal keys and a legal Secret, all succeed and keep the length. -/
theorem rounds_of_legal (kh : Kh) {st : Straps} (hst : secretLegal st = true) {keys : List (List Byte)} {n : Nat}
    (hn : 1 ≤ n) {ks : List Nat} (hks : ∀ k ∈ ks, keyLenLegal (keys.getD k []).length = true) {l r : List Byte}
    (hl : l.length = n) (hr : r.length = n) :
    ∃ l' r', rounds kh st keys ks l r = .ok (l', r') ∧ l'.length = n ∧ r'.length = n := by
  induction ks generalizing l r with
  | nil => exact ⟨l, r, rfl, hl, hr⟩
  | cons k ks ih =>
    have hround := (round_ok_iff kh st k (keys.getD k []) l r _).2
      ⟨_, roundFunction_of_legal kh hst (by omega) k (hks k List.mem_cons_self),
        by rw [functionValue_length, hl, hr], rfl⟩
    rw [rounds, hround]
    exact ih (fun k hk => hks k (List.mem_cons_of_mem _ hk)) hr
      (by rw [xorBytes_length, functionValue_length]; omega)

/-! #### PaddingTracker -/

/-- Out of band the tracker takes back what `split` appended (R141). -/
theorem strip_outOfBand (c : Byte) (m : List Byte) :
    strip c (evened c m) true (isOdd m.length) = (m, isOdd m.length) := by
  cases h : isOdd m.length with
  | false => simp [strip, strips, evened_of_even h]
  | true => simp [strip, strips, evened_of_odd h]

/-- The heuristic looks at the last byte (R141). -/
theorem strip_heuristic (c : Byte) (out : List Byte) (odd : Bool) :
    strip c out false odd =
      if out.getLast? = some c then (out.take (out.length - 1), true) else (out, false) := by
  rcases List.eq_nil_or_concat' out with rfl | ⟨bs, b, rfl⟩
  · rfl
  · simp [strip, strips]

/-! #### The cipher -/

/-- What encoding and decoding share: split, rounds in some order of the keys, the halves exchanged and joined
(R138, R139). -/
def run (kh : Kh) (st : Straps) (m : List Byte) (keys : List (List Byte)) (order : List Nat) :
    Result (List Byte × Bool) :=
  if keys.length = 0 then .error .emptyKeyList
  else do
    let h ← split st.pad m
    let p ← rounds kh st keys order h.left h.right
    return (p.2 ++ p.1, h.padded)

theorem encode_eq_run (kh : Kh) (st : Straps) (m : List Byte) (keys : List (List Byte)) :
    encode kh st m keys = run kh st m keys (forward keys.length) := rfl

theorem decode_eq_run (kh : Kh) (st : Straps) (c : List Byte) (keys : List (List Byte)) (oob odd : Bool) :
    decode kh st c keys oob odd =
      run kh st c keys (backward keys.length) >>= fun p => pure (strip st.pad p.1 oob odd) := by
  unfold decode run
  split
  · rfl
  · simp only [bind_assoc, pure_bind]

/-- The cipher text of a message under legal keys, and what the rounds of decoding make of it: the message as `split`
padded it (R142). -/
theorem run_forward_backward (kh : Kh) {st : Straps} (hst : secretLegal st = true) {m : List Byte}
    (hm : 2 ≤ m.length) {keys : List (List Byte)} (hne : 1 ≤ keys.length)
    (hkeys : ∀ key ∈ keys, keyLenLegal key.length = true) :
    ∃ c, run kh st m keys (forward keys.length) = .ok (c, isOdd m.length) ∧ c.length = 2 * halfUp m.length ∧
      run kh st c keys (backward keys.length) = .ok (evened st.pad m, false) := by
  have hhalf : 1 ≤ halfUp m.length := by rw [halfUp]; omega
  have hlegal : ∀ k ∈ forward keys.length, keyLenLegal (keys.getD k []).length = true := by
    intro k hk
    rw [forward, List.mem_range] at hk
    rw [List.getD_eq_getElem _ _ hk]
    exact hkeys _ (List.getElem_mem hk)
  obtain ⟨l', r', hrounds, hl', hr'⟩ := rounds_of_legal kh hst hhalf hlegal
    (l := (evened st.pad m).take (halfUp m.length)) (r := (evened st.pad m).drop (halfUp m.length))
    (by rw [List.length_take, evened_length]; omega) (by rw [List.length_drop, evened_length]; omega)
  refine ⟨r' ++ l', ?_, by rw [List.length_append]; omega, ?_⟩
  · rw [run, if_neg (by omega), split_of_two_le hm]
    change (rounds _ _ _ _ _ _ >>= _) = _
    rw [hrounds]
    rfl
  · rw [run, if_neg (by omega), split_append (by omega) (by omega)]
    change (rounds _ _ _ (forward _).reverse _ _ >>= _) = _
    rw [rounds_undo hrounds]
    change Except.ok (_ ++ _, false) = _
    rw [List.take_append_drop]

/-- Encoding succeeds, and decoding strips the padded message. -/
theorem decode_encode (kh : Kh) {st : Straps} (hst : secretLegal st = true) {m : List Byte} (hm : 2 ≤ m.length)
    {keys : List (List Byte)} (hne : 1 ≤ keys.length) (hkeys : ∀ key ∈ keys, keyLenLegal key.length = true) :
    ∃ c, encode kh st m keys = .ok (c, isOdd m.length) ∧ c.length = 2 * halfUp m.length ∧
      ∀ oob odd, decode kh st c keys oob odd = .ok (strip st.pad (evened st.pad m) oob odd) := by
  obtain ⟨c, hforward, hlen, hbackward⟩ := run_forward_backward kh hst hm hne hkeys
  refine ⟨c, hforward, hlen, fun oob odd => ?_⟩
  rw [decode_eq_run, hbackward]
  rfl

end Units

/-! #### The obligations -/

/-- Settles O30: the two errors in their order, and the salt. -/
theorem saltDerivation : Obligations.SaltDerivation := by
  intro kh st block
  refine ⟨Units.deriveSalt_of_badBlock kh st, fun hblock hsecret => ?_, fun hblock hmin hmax => ?_⟩
  · rw [Units.deriveSalt_of_block kh st hblock, if_neg (by rw [secretLegal_iff]; omega)]
  · refine ⟨_, ?_, Vector.length_toList, rfl⟩
    rw [Units.deriveSalt_of_block kh st hblock, if_pos ((secretLegal_iff st).2 ⟨hmin, hmax⟩)]
    rfl

/-- Settles O29: the padded string is `b` and then copies of `c`. -/
theorem padExtendsOrFails : Obligations.PadExtendsOrFails := by
  refine fun b n c => ⟨fun hb hn => ⟨_, Units.pad_of_fits hb hn c, ?_, List.take_left, fun j hj hjn => ?_⟩,
    fun h => Units.pad_of_not_fits h c⟩
  · rw [List.length_append, List.length_replicate]
    omega
  · rw [List.getElem?_append_right hj, List.getElem?_replicate_of_lt (by omega)]

/-- Settles O28: the halves are the padded message cut in the middle. -/
theorem splitInvariant : Obligations.SplitInvariant := by
  intro c m hm
  have htotal := Units.evened_length c m
  have hleft : ((Units.evened c m).take (halfUp m.length)).length = halfUp m.length := by
    rw [List.length_take]; omega
  have hright : ((Units.evened c m).drop (halfUp m.length)).length = halfUp m.length := by
    rw [List.length_drop]; omega
  have hjoin := List.take_append_drop (halfUp m.length) (Units.evened c m)
  refine ⟨_, _, _, Units.split_of_two_le hm c, hleft, hright, ?_, fun heven => ?_, fun hodd => ?_, hjoin, ?_⟩
  · rw [hleft, halfUp]; omega
  · rw [← isOdd_eq_false_iff] at heven
    exact ⟨hjoin.trans (Units.evened_of_even heven c), heven⟩
  · rw [← isOdd_iff] at hodd
    have hle : halfUp m.length ≤ m.length := by rw [halfUp]; omega
    rw [Units.evened_of_odd hodd, List.take_append_of_le_length hle, List.drop_append_of_le_length hle]
    exact ⟨by simp, by simp, hodd⟩
  · rw [hjoin, htotal, halfUp]

/-- Settles O31: the output is the blocks' digests one after the other. -/
theorem roundFunctionIsBlockwise : Obligations.RoundFunctionIsBlockwise := by
  intro kh st half key k hkey hkey' hhalf hmin hmax
  have hst := (secretLegal_iff st).2 ⟨hmin, hmax⟩
  refine ⟨_, Units.roundFunction_of_legal kh hst hhalf k ((keyLenLegal_iff _).2 ⟨hkey, hkey'⟩),
    Units.functionValue_length kh st half key, fun i hi => ?_⟩
  have hblock := Units.functionValue_block kh st half key hi
  rw [Units.lt_blockCount_iff] at hi
  rw [Units.blockOutput_of_block kh st key (by rw [Units.block_length]; omega) (by rw [Units.block_length]; omega),
    if_pos hst, ← hblock, Units.block]

/-- Settles O32: byte by byte these are the laws of the exclusive or. -/
theorem xorLaws : Obligations.XorLaws := by
  refine fun a b c => ⟨fun hab hbc => ?_, Units.xor_of_length_ne⟩
  have hlen : (Units.xorBytes a b).length = a.length := by rw [Units.xorBytes_length]; omega
  refine ⟨_, _, Units.xor_of_length_eq hab, Units.xor_of_length_eq hbc, ?_, ?_, ?_, hlen⟩
  · rw [Units.xor_of_length_eq (hlen.trans hab), Units.xorBytes_xorBytes_cancel hab]
  · rw [Units.xor_of_length_eq hab.symm, Units.xorBytes_comm]
  · rw [Units.xor_of_length_eq (by omega), Units.xor_of_length_eq (by rw [Units.xorBytes_length]; omega),
      Units.xorBytes_assoc]

/-- Settles O33: decoding strips the padded message, and the PaddingTracker says what is left of it. -/
theorem roundTripOfTheCipher : Obligations.RoundTripOfTheCipher := by
  intro kh st m keys hmin hmax hne hkeys hm
  obtain ⟨c, hencode, hlen, hdecode⟩ := Units.decode_encode kh ((secretLegal_iff st).2 ⟨hmin, hmax⟩) hm hne
    fun key hkey => (keyLenLegal_iff _).2 (hkeys key hkey)
  refine ⟨c, _, hencode, isOdd_eq_decide _, hlen, by rw [hdecode, Units.strip_outOfBand], ?_⟩
  rw [hdecode, Units.strip_heuristic]
  by_cases hodd : m.length % 2 = 1
  · rw [if_pos hodd, Units.evened_of_odd ((isOdd_iff _).2 hodd)]
    simp
  · rw [if_neg hodd, Units.evened_of_even (by rw [isOdd_eq_false_iff]; omega)]
    split <;> rfl

end Sys2Proof.Machine

namespace Sys2Proof.Machine

/-! ### The commands compute the function units

The obligation O60 (40_function_units.md R142, 43_macro_commands.md R200, R202). The commands work on registers and
buffers, the units on byte strings. Level by level, from one block of the round function to a whole job, the command
and the unit agree: they fail with the same error, or the command leaves the unit's value in its buffer. -/

/-- Two computations agree: both succeed, with results related by `R`, or both fail with the same error. -/
def Agrees {α β : Type} (R : α → β → Prop) : Result α → Result β → Prop
  | .ok a, .ok b => R a b
  | .error e, .error e' => e = e'
  | .ok _, .error _ => False
  | .error _, .ok _ => False

section Agrees

variable {α β α' β' : Type} {R : α → β → Prop} {S : α' → β' → Prop} {x : Result α} {y : Result β}

/-- Agreement is kept by sequencing (00_scope.md R14). -/
theorem Agrees.bind (h : Agrees R x y) {f : α → Result α'} {g : β → Result β'}
    (hfg : ∀ a b, x = .ok a → R a b → Agrees S (f a) (g b)) : Agrees S (x >>= f) (y >>= g) := by
  match x, y, h with
  | .ok a, .ok b, hab => exact hfg a b rfl hab
  | .error _, .error _, he => exact he

/-- The unit works on its value further, where the command has done so already. -/
theorem Agrees.map_right (h : Agrees R x y) {S : α → β' → Prop} {g : β → β'} (hg : ∀ a b, R a b → S a (g b)) :
    Agrees S x (y >>= fun b => pure (g b)) := by
  match x, y, h with
  | .ok a, .ok b, hab => exact hg a b hab
  | .error _, .error _, he => exact he

theorem Agrees.mono (h : Agrees R x y) {S : α → β → Prop} (hRS : ∀ a b, R a b → S a b) : Agrees S x y := by
  match x, y, h with
  | .ok a, .ok b, hab => exact hRS a b hab
  | .error _, .error _, he => exact he

theorem Agrees.exists_ok (h : Agrees R x y) {b : β} (hy : y = .ok b) : ∃ a, x = .ok a ∧ R a b := by
  subst hy
  match x, h with
  | .ok a, hab => exact ⟨a, rfl, hab⟩

end Agrees

/-! #### Frames of the storage -/

section Frames

variable {m m' m'' : Mem} {rs : List (Nat × Nat)}

theorem SameOutside.refl (m : Mem) (rs : List (Nat × Nat)) : SameOutside m m rs := fun _ _ => rfl

theorem SameOutside.trans (h : SameOutside m m' rs) (h' : SameOutside m' m'' rs) : SameOutside m m'' rs :=
  fun a ha => (h' a ha).trans (h a ha)

/-- More may be written than was. -/
theorem SameOutside.widen {rs' : List (Nat × Nat)} (h : SameOutside m m' rs)
    (hrs : ∀ a, (∀ r ∈ rs', ¬ (r.1 ≤ a ∧ a < r.1 + r.2)) → ∀ r ∈ rs, ¬ (r.1 ≤ a ∧ a < r.1 + r.2)) :
    SameOutside m m' rs' := fun a ha => h a (hrs a ha)

theorem SameOutside.mono {rs' : List (Nat × Nat)} (h : SameOutside m m' rs) (hrs : rs ⊆ rs') : SameOutside m m' rs' :=
  h.widen fun _ ha r hr => ha r (hrs hr)

/-- A string stored inside one of the ranges. -/
theorem SameOutside.put (h : SameOutside m m' rs) {r : Nat × Nat} (hr : r ∈ rs) {a : Nat} {bs : List Byte}
    (hbase : r.1 ≤ a) (hfits : a + bs.length ≤ r.1 + r.2) : SameOutside m (m'.put a bs) rs := by
  intro x hx
  have hout := hx r hr
  rw [Mem.get_put_out _ _ _ _ (by omega), h x hx]

/-- A string apart from all the ranges. -/
theorem SameOutside.slice_eq (h : SameOutside m m' rs) {a n : Nat} (hrs : ∀ r ∈ rs, a + n ≤ r.1 ∨ r.1 + r.2 ≤ a) :
    m'.slice a n = m.slice a n :=
  Mem.slice_congr _ _ _ _ _ fun j hj => h _ fun r hr hin => by have := hrs r hr; omega

end Frames

/-! #### The host's inputs as strings -/

section Inputs

variable {s t : State} (h : s.InputsKept t)
include h

theorem State.InputsKept.klen_eq {k : Nat} (hk : k < 32) : t.klen k = s.klen k :=
  congrArg BitVec.toNat (h.bytes _ ((isInput_iff _).2 (by simp only [Map.klen]; omega)))

theorem State.InputsKept.key_eq {k : Nat} (hk : k < 32) : t.key k = s.key k := by
  have hklen : s.klen k < 256 := BitVec.isLt _
  rw [State.key, State.key, h.klen_eq hk]
  exact Mem.slice_congr _ _ _ _ _ fun j hj => h.bytes _ ((isInput_iff _).2 (by simp only [Map.keymem]; omega))

theorem State.InputsKept.keyList_eq (hnkeys : s.nkeys.toNat ≤ 32) : t.keyList = s.keyList := by
  rw [State.keyList, State.keyList, h.nkeys]
  refine List.map_congr_left fun k hk => h.key_eq ?_
  rw [List.mem_range] at hk
  omega

end Inputs

/-! #### One block of the round function -/

/-- A register holds a number that fits it. -/
theorem toNat_ofNat_word {n : Nat} (h : n ≤ 4096) : (BitVec.ofNat 16 n : Word).toNat = n :=
  Nat.mod_eq_of_lt (by omega)

theorem State.block_rightHalf (s : State) {i : Nat} (hi : 64 * i < s.hlen.toNat) :
    Units.block s.rightHalf i = s.bytes (Map.right + blockOffset i) (s.blockLen i) := by
  rw [Units.block, State.rightHalf, State.bytes, Mem.slice_drop _ _ _ _ (by omega), List.take_eq_take_min,
    Mem.slice_length, Mem.slice_take _ _ _ _ (min_le_right _ _)]
  rfl

theorem State.blockLen_pos (s : State) {i : Nat} (hi : 64 * i < s.hlen.toNat) : 1 ≤ s.blockLen i := by
  simp only [State.blockLen, blockOffset, Config.blockSize]
  omega

/-- A string stored in two parts, one behind the other. -/
theorem Mem.slice_put_put (m : Mem) (a : Nat) (bs cs : List Byte) :
    ((m.put a bs).put (a + bs.length) cs).slice a (bs.length + cs.length) = bs ++ cs := by
  rw [Mem.slice_add, Mem.slice_put_disjoint _ _ _ _ _ (.inl le_rfl), Mem.slice_put_same _ _ _ _ rfl,
    Mem.slice_put_same _ _ _ _ rfl]

/-- What BLKLOAD `i` and BLKPAD leave: the padded block in `BLK` (R150, R152). -/
structure State.BlockPadded (s : State) (i : Nat) (t : State) : Prop where
  regs : t = { s with mem := t.mem, blkLen := 64 }
  blockReg : t.blockReg = Units.paddedBlock s.straps (Units.block s.rightHalf i)
  frame : SameOutside s.mem t.mem [(Map.blk, 64)]

theorem loadBlock_padBlock {s : State} {i : Nat} (hi : 64 * i < s.hlen.toNat) :
    ∃ t, loadBlock i s >>= padBlock = .ok t ∧ s.BlockPadded i t := by
  have hlen : 1 ≤ s.blockLen i ∧ s.blockLen i ≤ 64 := ⟨s.blockLen_pos hi, s.blockLen_le i⟩
  have hload := (loadBlock_ok_iff i s _).2 ⟨hi, rfl⟩
  have hblkLen : (BitVec.ofNat 16 (s.blockLen i) : Word).toNat = s.blockLen i := toNat_ofNat_word (by omega)
  refine ⟨_, (bind_ok_iff _ _ _).2 ⟨_, hload, (padBlock_ok_iff _ _).2 ⟨?_, rfl⟩⟩, rfl, ?_, ?_⟩
  all_goals simp only [State.setBlkLen_blkLen, hblkLen]
  · exact hlen
  · have hstored := s.mem.slice_put_put Map.blk (s.bytes (Map.right + blockOffset i) (s.blockLen i))
      (List.replicate (64 - s.blockLen i) s.straps.pad)
    rw [State.bytes_length, List.length_replicate, Nat.add_sub_cancel' hlen.2] at hstored
    rw [Units.paddedBlock, s.block_rightHalf hi, State.bytes_length]
    exact hstored
  · exact ((SameOutside.refl _ _).put List.mem_cons_self le_rfl (by simp; omega)).put List.mem_cons_self (by simp)
      (by simp; omega)

/-- The scratch buffers as block `i` of the round function under slot `k` leaves them: the padded block, its salt and
its digest (R150 to R156). -/
structure State.Scratch (s : State) (k i : Nat) (m : Mem) : Prop where
  blk : m.slice Map.blk 64 = Units.paddedBlock s.straps (Units.block s.rightHalf i)
  salt : m.slice Map.salt 16 = (s.hash (Units.secretBytes s.straps) [] 16 (m.slice Map.blk 64)).toList
  dig : m.slice Map.dig 64 = (s.hash (s.key k) (m.slice Map.salt 16) 64 (m.slice Map.blk 64)).toList

/-- `FOUT` lies behind the scratch buffers. -/
theorem State.Scratch.put_fout {s : State} {k i : Nat} {m : Mem} (h : s.Scratch k i m) (j : Nat) (bs : List Byte) :
    s.Scratch k i (m.put (Map.fout + j) bs) := by
  have hkeep : ∀ a n, a + n ≤ Map.fout → (m.put (Map.fout + j) bs).slice a n = m.slice a n :=
    fun a n han => Mem.slice_put_disjoint _ _ _ _ _ (.inl (by omega))
  constructor
  all_goals rw [hkeep Map.blk 64 (by decide)]
  · exact h.blk
  · rw [hkeep Map.salt 16 (by decide)]; exact h.salt
  · rw [hkeep Map.salt 16 (by decide), hkeep Map.dig 64 (by decide)]; exact h.dig

theorem State.Scratch.digest_take {s : State} {k i : Nat} {m : Mem} (h : s.Scratch k i m) :
    (m.slice Map.dig 64).take (Units.block s.rightHalf i).length =
      Units.blockDigest s.hash s.straps (s.key k) (Units.block s.rightHalf i) := by
  rw [h.dig, h.salt, h.blk, Units.blockDigest]

/-- What SALT and HASH `k` make of the padded block `i` (R154, R156). -/
structure State.BlockHashed (s : State) (k i : Nat) (t : State) : Prop where
  regs : t = { s with mem := t.mem, blkLen := 64 }
  scratch : s.Scratch k i t.mem
  frame : SameOutside s.mem t.mem [(Map.blk, 64), (Map.salt, 16), (Map.dig, 64)]

theorem State.BlockPadded.scratch {s t : State} {k i : Nat} (ht : s.BlockPadded i t) {salt digest : List Byte}
    (hsalt : salt = (s.hash (Units.secretBytes s.straps) [] 16 t.blockReg).toList)
    (hdigest : digest = (s.hash (s.key k) salt 64 t.blockReg).toList) :
    s.Scratch k i ((t.mem.put Map.salt salt).put Map.dig digest) := by
  have hlen : salt.length = 16 := by rw [hsalt, Vector.length_toList]
  have hblk : ((t.mem.put Map.salt salt).put Map.dig digest).slice Map.blk 64 = t.blockReg := by
    rw [Mem.slice_put_disjoint _ _ _ _ _ (.inl (by decide)), Mem.slice_put_disjoint _ _ _ _ _ (.inl (by decide))]
    rfl
  have hsaltReg : ((t.mem.put Map.salt salt).put Map.dig digest).slice Map.salt 16 = salt := by
    rw [Mem.slice_put_disjoint _ _ _ _ _ (.inl (by decide)), Mem.slice_put_same _ _ _ _ hlen]
  refine ⟨hblk.trans ht.blockReg, by rw [hblk, hsaltReg, hsalt], ?_⟩
  rw [hblk, hsaltReg, Mem.slice_put_same _ _ _ _ (by rw [hdigest, Vector.length_toList]), hdigest]

theorem saltBlock_hashBlock {s t : State} (hs : s.inRange) {k i : Nat} (hload : loadBlock i s >>= padBlock = .ok t)
    (ht : s.BlockPadded i t) (hsecret : Units.secretLegal s.straps = true) (hk : s.keyUsable k) :
    ∃ u, saltBlock t >>= hashBlock k = .ok u ∧ s.BlockHashed k i u := by
  have ⟨_, _, _, _, hnkeys, _⟩ := hs
  obtain ⟨hkn, hklen⟩ := hk
  have hslot : k < 32 := by omega
  have hregs := ht.regs
  have hblkLen : t.blkLen.toNat = 64 := by rw [hregs]; rfl
  have hstraps : t.straps = s.straps := by rw [hregs]
  have hhash : t.hash = s.hash := by rw [hregs]; rfl
  have hsalt := (saltBlock_ok_iff t _).2 ⟨hblkLen, by rwa [hstraps], rfl⟩
  have hkept := ((((loadBlock_sound i).bind padBlock_sound).bind saltBlock_sound).worked s _ hs
    ((bind_ok_iff _ _ _).2 ⟨t, hload, hsalt⟩)).inputsKept
  rw [← hkept.klen_eq hslot] at hklen
  rw [← hkept.nkeys] at hkn
  refine ⟨_, (bind_ok_iff _ _ _).2 ⟨_, hsalt, (hashBlock_ok_iff k _ _).2 ⟨⟨hkn, hklen⟩, hblkLen, rfl⟩⟩, ?_, ?_, ?_⟩
  · rw [hregs]
    rfl
  · have hblockReg := t.mem.slice_put_disjoint Map.salt
      (t.hash (Units.secretBytes t.straps) [] 16 t.blockReg).toList Map.blk 64 (.inl (by decide))
    have hsaltReg := t.mem.slice_put_same Map.salt 16
      (t.hash (Units.secretBytes t.straps) [] 16 t.blockReg).toList (Vector.length_toList)
    refine ht.scratch (by rw [hhash, hstraps]) ?_
    rw [hkept.key_eq hslot, ← hhash]
    exact congrArg Vector.toList (congrArg₂ (fun salt blk => t.hash (s.key k) salt 64 blk) hsaltReg hblockReg)
  · exact ((ht.frame.mono (by simp)).put (r := (Map.salt, 16)) (by simp) le_rfl (by simp)).put
      (r := (Map.dig, 64)) (by simp) le_rfl (by simp)

/-- The byte after block `j` of a half (R121, R158). -/
def State.blockEnd (s : State) (j : Nat) : Nat := min (64 * (j + 1)) s.hlen.toNat

theorem State.blockOffset_add_blockLen (s : State) {i : Nat} (hi : 64 * i < s.hlen.toNat) :
    blockOffset i + s.blockLen i = s.blockEnd i := by
  simp only [State.blockLen, blockOffset, Config.blockSize, State.blockEnd]
  omega

/-- The blocks `i` to `j` of the round function under slot `k` are done: their output `d` stands in `FOUT`, and the
scratch registers are those of block `j` (R160, R172). -/
structure State.BlocksApplied (s : State) (k i j : Nat) (t : State) (d : List Byte) : Prop where
  regs : t = { s with mem := t.mem, flen := BitVec.ofNat 16 (s.blockEnd j), blkLen := 64 }
  fout : t.mem.slice (Map.fout + 64 * i) (s.blockEnd j - 64 * i) = d
  scratch : s.Scratch k j t.mem
  frame : SameOutside s.mem t.mem
    [(Map.fout + 64 * i, s.blockEnd j - 64 * i), (Map.blk, 64), (Map.salt, 16), (Map.dig, 64)]

theorem emitBlock_of_hashed {s t : State} {k i : Nat} (ht : s.BlockHashed k i t) (hi : 64 * i < s.hlen.toNat) :
    ∃ u, emitBlock i t = .ok u ∧
      s.BlocksApplied k i i u (Units.blockDigest s.hash s.straps (s.key k) (Units.block s.rightHalf i)) := by
  have hhlen : t.hlen = s.hlen := by rw [ht.regs]
  have hlen : t.blockLen i = s.blockLen i := by rw [State.blockLen, State.blockLen, hhlen]
  have hend := s.blockOffset_add_blockLen hi
  have hn : (Units.block s.rightHalf i).length = s.blockLen i := by rw [s.block_rightHalf hi, State.bytes_length]
  have hdiff : s.blockEnd i - 64 * i = s.blockLen i := by rw [blockOffset, Config.blockSize] at hend; omega
  have hemitted : t.bytes Map.dig (s.blockLen i) =
      Units.blockDigest s.hash s.straps (s.key k) (Units.block s.rightHalf i) := by
    rw [← ht.scratch.digest_take, hn, Mem.slice_take _ _ _ _ (s.blockLen_le i)]
    rfl
  refine ⟨_, (emitBlock_ok_iff i t _).2 ⟨by rwa [hhlen], rfl⟩, ?regs, ?fout, ht.scratch.put_fout _ _, ?frame⟩
  case regs => rw [hlen, hend, ht.regs]; rfl
  case fout =>
    rw [hdiff, hlen, hemitted]
    exact Mem.slice_put_same _ _ _ _ ((Units.blockDigest_block_length ..).trans hn)
  case frame =>
    refine (ht.frame.mono (List.subset_cons_self _ _)).put List.mem_cons_self le_rfl ?_
    rw [State.bytes_length, hlen, hdiff]
    exact le_rfl

theorem functionBlock_of_padded {k i : Nat} {s t : State} (h : loadBlock i s >>= padBlock = .ok t) :
    functionBlock k i s = (saltBlock t >>= hashBlock k) >>= emitBlock i := by
  rw [functionBlock, ← bind_assoc, h, bind_assoc]
  rfl

theorem functionBlock_agrees {s : State} (hs : s.inRange) {k i : Nat} (hk : s.keyUsable k)
    (hi : 64 * i < s.hlen.toNat) :
    Agrees (s.BlocksApplied k i i) (functionBlock k i s)
      (Units.blockOutput s.hash s.straps (s.key k) (Units.block s.rightHalf i)) := by
  have hlen : 1 ≤ (Units.block s.rightHalf i).length ∧ (Units.block s.rightHalf i).length ≤ 64 := by
    rw [Units.block_length, State.rightHalf_length]
    omega
  obtain ⟨t, hload, ht⟩ := loadBlock_padBlock hi
  rw [functionBlock_of_padded hload, Units.blockOutput_of_block _ _ _ hlen.1 hlen.2]
  cases hsecret : Units.secretLegal s.straps with
  | false =>
    have hblkLen : t.blkLen.toNat = 64 := by rw [ht.regs]; rfl
    have hstraps : t.straps = s.straps := by rw [ht.regs]
    rw [saltBlock, if_neg (not_not.2 hblkLen), hstraps, hsecret]
    exact rfl
  | true =>
    obtain ⟨u, hhash, hu⟩ := saltBlock_hashBlock hs hload ht hsecret hk
    obtain ⟨v, hemit, hv⟩ := emitBlock_of_hashed hu hi
    rw [hhash]
    change Agrees _ (emitBlock i u) _
    rw [hemit]
    exact hv

/-! #### The round function -/

section BlocksApplied

variable {s t : State} {k i j : Nat} {d : List Byte} (h : s.BlocksApplied k i j t d)
include h

theorem State.BlocksApplied.hlen_eq : t.hlen = s.hlen := (congrArg State.hlen h.regs :)

theorem State.BlocksApplied.straps_eq : t.straps = s.straps := (congrArg State.straps h.regs :)

theorem State.BlocksApplied.hash_eq : t.hash = s.hash := (congrArg State.hash h.regs :)

/-- The halves lie apart from what the round function writes. -/
theorem State.BlocksApplied.half_eq {a : Nat} (ha : Map.left ≤ a) {n : Nat} (han : a + n ≤ Map.fout) :
    t.mem.slice a n = s.mem.slice a n := by
  refine h.frame.slice_eq ?_
  simp only [List.mem_cons, List.not_mem_nil, or_false, forall_eq_or_imp, forall_eq, Map.left, Map.fout, Map.blk,
    Map.salt, Map.dig] at ha han ⊢
  omega

theorem State.BlocksApplied.rightHalf_eq (hs : s.hlen.toNat ≤ 2048) : t.rightHalf = s.rightHalf := by
  rw [State.rightHalf, State.rightHalf, h.hlen_eq]
  exact h.half_eq (by decide) (by simp only [Map.right, Map.fout]; omega)

theorem State.BlocksApplied.leftHalf_eq (hs : s.hlen.toNat ≤ 2048) : t.leftHalf = s.leftHalf := by
  rw [State.leftHalf, State.leftHalf, h.hlen_eq]
  exact h.half_eq (by decide) (by simp only [Map.left, Map.fout]; omega)

end BlocksApplied

/-- The blocks up to `j`, then those from `j + 1` on. -/
theorem State.BlocksApplied.trans {s t u : State} {k i j l : Nat} {d e : List Byte} (h : s.BlocksApplied k i j t d)
    (h' : t.BlocksApplied k (j + 1) l u e) (hs : s.hlen.toNat ≤ 2048) (hkey : t.key k = s.key k) (hij : i ≤ j)
    (hj : 64 * (j + 1) < s.hlen.toNat) (hjl : j < l) : s.BlocksApplied k i l u (d ++ e) := by
  have hend : t.blockEnd l = s.blockEnd l := by rw [State.blockEnd, State.blockEnd, h.hlen_eq]
  have hendj : s.blockEnd j = 64 * (j + 1) := min_eq_left hj.le
  have hbelow : 64 * (j + 1) ≤ s.blockEnd l ∧ s.blockEnd l ≤ 2048 := by rw [State.blockEnd]; omega
  have hframe := h'.frame
  rw [hend] at hframe
  refine ⟨?regs, ?fout, ?scratch, ?frame⟩
  case regs => rw [h'.regs, hend, h.regs]
  case fout =>
    have hkept : u.mem.slice (Map.fout + 64 * i) (64 * (j + 1) - 64 * i) = d := by
      rw [hframe.slice_eq, ← hendj, h.fout]
      simp only [List.mem_cons, List.not_mem_nil, or_false, forall_eq_or_imp, forall_eq, Map.fout, Map.blk, Map.salt,
        Map.dig]
      omega
    have hparts : s.blockEnd l - 64 * i = (64 * (j + 1) - 64 * i) + (s.blockEnd l - 64 * (j + 1)) := by omega
    have hmiddle : Map.fout + 64 * i + (64 * (j + 1) - 64 * i) = Map.fout + 64 * (j + 1) := by omega
    rw [hparts, Mem.slice_add, hkept, hmiddle, ← hend, h'.fout]
  case scratch =>
    have hscratch := h'.scratch
    constructor
    · rw [hscratch.blk, h.rightHalf_eq hs, h.straps_eq]
    · rw [hscratch.salt, h.hash_eq, h.straps_eq]
    · rw [hscratch.dig, h.hash_eq, hkey]
  case frame =>
    refine (h.frame.widen fun a ha => ?_).trans (hframe.widen fun a ha => ?_)
    all_goals
      simp only [List.mem_cons, List.not_mem_nil, or_false, forall_eq_or_imp, forall_eq, hendj] at ha ⊢
      omega

theorem functionBlocks_one (k i : Nat) (s : State) : functionBlocks k 1 i s = functionBlock k i s := bind_pure _

theorem Units.blockOutputs_singleton (kh : Kh) (st : Straps) (key b : List Byte) :
    Units.blockOutputs kh st key [b] = Units.blockOutput kh st key b := by
  rw [Units.blockOutputs, Units.blockOutputs]
  cases Units.blockOutput kh st key b with
  | error e => rfl
  | ok d => exact congrArg Except.ok (List.append_nil d)

/-- The loop of FAPPLY over the blocks `i` to `i + n` (R125, R172). -/
theorem functionBlocks_agrees {k : Nat} : ∀ (n i : Nat) {s : State}, s.inRange → s.keyUsable k →
    64 * (i + n) < s.hlen.toNat →
    Agrees (s.BlocksApplied k i (i + n)) (functionBlocks k (n + 1) i s)
      (Units.blockOutputs s.hash s.straps (s.key k) ((List.range' i (n + 1)).map (Units.block s.rightHalf)))
  | 0, i, s, hs, hk, hi => by
    rw [functionBlocks_one, List.range'_one, List.map_singleton, Units.blockOutputs_singleton]
    exact functionBlock_agrees hs hk hi
  | n + 1, i, s, hs, hk, hi => by
    have ⟨_, _, hhlen, _, hnkeys, _⟩ := hs
    obtain ⟨hkn, hklen⟩ := hk
    rw [functionBlocks, List.range'_succ, List.map_cons, Units.blockOutputs]
    refine (functionBlock_agrees hs ⟨hkn, hklen⟩ (by omega)).bind fun t d hstep ht => ?_
    have hworked := (functionBlock_sound k i).worked s t hs hstep
    have hkept := hworked.inputsKept
    have hkey := hkept.key_eq (k := k) (by omega)
    have ih := functionBlocks_agrees n (i + 1) hworked.inRange (k := k)
      ⟨by rwa [hkept.nkeys], by rwa [hkept.klen_eq (by omega)]⟩ (by rw [ht.hlen_eq]; omega)
    rw [ht.hash_eq, ht.straps_eq, hkey, ht.rightHalf_eq hhlen] at ih
    refine ih.map_right fun u e hu => ?_
    rw [show i + 1 + n = i + (n + 1) by omega] at hu
    exact ht.trans hu hhlen hkey le_rfl (by omega) (by omega)

/-- FAPPLY `k` is done: `FOUT` holds the round function's output `f`, and the scratch registers are those of the last
block (R172). -/
structure State.FunctionApplied (s : State) (k : Nat) (t : State) (f : List Byte) : Prop where
  regs : t = { s with mem := t.mem, flen := s.hlen, blkLen := 64 }
  fOutput : t.fOutput = f
  leftHalf : t.leftHalf = s.leftHalf
  rightHalf : t.rightHalf = s.rightHalf
  scratch : s.Scratch k (blockCount s.hlen.toNat - 1) t.mem
  frame : SameOutside s.mem t.mem [(Map.fout, s.hlen.toNat), (Map.blk, 64), (Map.salt, 16), (Map.dig, 64)]

theorem State.BlocksApplied.functionApplied {s t : State} {k n : Nat} {f : List Byte}
    (h : s.BlocksApplied k 0 n t f) (hs : s.hlen.toNat ≤ 2048) (hn : blockCount s.hlen.toNat = n + 1) :
    s.FunctionApplied k t f := by
  have hend : s.blockEnd n = s.hlen.toNat := by
    rw [blockCount] at hn
    rw [State.blockEnd]
    omega
  have hflen : BitVec.ofNat 16 (s.blockEnd n) = s.hlen := by rw [hend, BitVec.ofNat_toNat, BitVec.setWidth_eq]
  have hregs := h.regs
  have hfout := h.fout
  have hframe := h.frame
  rw [hflen] at hregs
  rw [hend] at hfout hframe
  refine ⟨hregs, ?_, h.leftHalf_eq hs, h.rightHalf_eq hs, ?_, hframe⟩
  · rw [State.fOutput, congrArg State.flen hregs]
    exact hfout
  · rw [hn]
    exact h.scratch

theorem State.checkKey_of_lt {s : State} {k : Nat} (hk : k < s.nkeys.toNat) :
    s.checkKey k = if Units.keyLenLegal (s.klen k) then .ok (s.key k) else .error (.badKeyLength k (s.klen k)) :=
  if_neg (not_le.2 hk)

/-- FAPPLY of a slot the key list has computes the round function of `R`, its errors included (R125, R172). -/
theorem applyFunction_agrees {s : State} (hs : s.inRange) {k : Nat} (hk : k < s.nkeys.toNat) :
    Agrees (s.FunctionApplied k) (applyFunction k s) (Units.roundFunction s.hash s.straps s.rightHalf k (s.key k)) := by
  have ⟨_, _, hhlen, _⟩ := hs
  rw [applyFunction, s.checkKey_of_lt hk, Units.roundFunction, State.key_length, State.rightHalf_length]
  by_cases hkey : Units.keyLenLegal (s.klen k) = true
  · rw [if_pos hkey, if_pos hkey]
    change Agrees _ (if _ then _ else _) _
    by_cases hzero : s.hlen.toNat = 0
    · rw [if_pos hzero, if_pos hzero]
      exact rfl
    · rw [if_neg hzero, if_neg hzero]
      obtain ⟨n, hn⟩ := Nat.exists_eq_add_one_of_ne_zero
        (Nat.ne_of_gt ((Units.lt_blockCount_iff s.hlen.toNat 0).2 (by omega)))
      have hlast := (Units.lt_blockCount_iff s.hlen.toNat n).1 (by omega)
      rw [Units.blocks, State.rightHalf_length, hn, List.range_eq_range']
      exact (functionBlocks_agrees n 0 hs ⟨hk, (keyLenLegal_iff _).1 hkey⟩ (by rwa [Nat.zero_add])).mono
        fun t f ht => (Nat.zero_add n ▸ ht).functionApplied hhlen hn
  · rw [if_neg hkey, if_neg hkey]
    exact rfl

/-! #### Rounds -/

/-- The working buffers of a round on halves of `h` bytes, base and size (R56). -/
def roundBuffers (h : Nat) : List (Nat × Nat) :=
  [(Map.left, h), (Map.right, h), (Map.fout, h), (Map.blk, 64), (Map.salt, 16), (Map.dig, 64)]

/-- `n` ROUNDs are done and left the halves `p` (R176). -/
structure State.RoundsDone (s : State) (n : Nat) (t : State) (p : List Byte × List Byte) : Prop where
  regs : t = { s with mem := t.mem, flen := s.hlen, blkLen := 64, rnd := BitVec.ofNat 16 (s.rnd.toNat + n) }
  leftHalf : t.leftHalf = p.1
  rightHalf : t.rightHalf = p.2
  frame : SameOutside s.mem t.mem (roundBuffers s.hlen.toNat)

theorem swapHalves_leftHalf {s : State} (hs : s.hlen.toNat ≤ 2048) : (swapHalves s).leftHalf = s.rightHalf := by
  change ((s.mem.put Map.left s.rightHalf).put Map.right s.leftHalf).slice Map.left s.hlen.toNat = _
  rw [Mem.slice_put_disjoint _ _ _ _ _ (.inl (by simp only [Map.left, Map.right]; omega)),
    Mem.slice_put_same _ _ _ _ s.rightHalf_length]

theorem swapHalves_rightHalf (s : State) : (swapHalves s).rightHalf = s.leftHalf :=
  Mem.slice_put_same _ _ _ _ s.leftHalf_length

theorem swapHalves_frame (s : State) : SameOutside s.mem (swapHalves s).mem (roundBuffers s.hlen.toNat) :=
  ((SameOutside.refl _ _).put (r := (Map.left, s.hlen.toNat)) (by simp [roundBuffers]) le_rfl (by simp)).put
    (r := (Map.right, s.hlen.toNat)) (by simp [roundBuffers]) le_rfl (by simp)

/-- XORL after FAPPLY (R173): `L` becomes `L ⊕ f`. -/
theorem xorLeft_of_applied {s t : State} {k : Nat} {f : List Byte} (h : s.FunctionApplied k t f)
    (hs : s.hlen.toNat ≤ 2048) :
    ∃ u, xorLeft t = .ok u ∧ u = { s with mem := u.mem, flen := s.hlen, blkLen := 64 } ∧
      u.leftHalf = Units.xorBytes s.leftHalf f ∧ u.rightHalf = s.rightHalf ∧
      SameOutside s.mem u.mem (roundBuffers s.hlen.toNat) := by
  have hhlen : t.hlen = s.hlen := (congrArg State.hlen h.regs :)
  have hflen : t.flen = s.hlen := (congrArg State.flen h.regs :)
  have hlen : (Units.xorBytes t.leftHalf t.fOutput).length = t.hlen.toNat := by
    rw [Units.xorBytes_length, State.leftHalf_length, State.fOutput, State.bytes_length, hflen, hhlen, min_self]
  refine ⟨_, (xorLeft_ok_iff t _).2 ⟨by rw [hflen, hhlen], rfl⟩, ?regs, ?left, ?right, ?frame⟩
  case regs => rw [h.regs]; rfl
  case left =>
    rw [← h.leftHalf, ← h.fOutput]
    exact Mem.slice_put_same _ _ _ _ hlen
  case right =>
    rw [← h.rightHalf]
    exact Mem.slice_put_disjoint _ _ _ _ _ (.inr (by rw [hlen, hhlen]; simp only [Map.left, Map.right]; omega))
  case frame =>
    exact (h.frame.mono (by simp [roundBuffers])).put (r := (Map.left, s.hlen.toNat)) (by simp [roundBuffers]) le_rfl
      (by rw [hlen, hhlen])

/-- A ROUND that may run uses a slot the key list has (R32). -/
theorem State.roundSlot_lt (s : State) (hrnd : s.rnd.toNat < s.nkeys.toNat) : s.roundSlot < s.nkeys.toNat := by
  rw [State.roundSlot]
  split <;> omega

/-- ROUND is one round of the cipher under the key that `RND` and `DIR` select, its errors included (R136, R176). -/
theorem oneRound_agrees {s : State} (hs : s.inRange) (hrnd : s.rnd.toNat < s.nkeys.toNat) :
    Agrees (s.RoundsDone 1) (oneRound s)
      (Units.round s.hash s.straps s.roundSlot (s.key s.roundSlot) s.leftHalf s.rightHalf) := by
  have ⟨_, _, hhlen, _⟩ := hs
  have hslot := s.roundSlot_lt hrnd
  rw [oneRound, if_neg (not_le.2 hrnd), Units.round]
  refine (applyFunction_agrees hs hslot).bind fun t f _ ht => ?_
  obtain ⟨u, hxor, hregs, hleft, hright, hframe⟩ := xorLeft_of_applied ht hhlen
  have huhlen : u.hlen = s.hlen := (congrArg State.hlen hregs :)
  have hlen : s.leftHalf.length = f.length := by
    rw [← ht.fOutput, State.fOutput, State.bytes_length, State.leftHalf_length, (congrArg State.flen ht.regs :)]
  rw [hxor, Units.xor_of_length_eq hlen]
  refine ⟨?regs, ?left, (swapHalves_rightHalf u).trans hleft, ?frame⟩
  case regs => rw [hregs]; rfl
  case left => exact (swapHalves_leftHalf (by rwa [huhlen])).trans hright
  case frame => exact hframe.trans (huhlen ▸ swapHalves_frame u)

theorem State.RoundsDone.trans {s t u : State} {n n' : Nat} {p q : List Byte × List Byte} (h : s.RoundsDone n t p)
    (h' : t.RoundsDone n' u q) (hrnd : t.rnd.toNat = s.rnd.toNat + n) : s.RoundsDone (n + n') u q := by
  have hhlen : t.hlen = s.hlen := (congrArg State.hlen h.regs :)
  refine ⟨?_, h'.leftHalf, h'.rightHalf, h.frame.trans (hhlen ▸ h'.frame)⟩
  rw [h'.regs, hhlen, hrnd, h.regs, Nat.add_assoc]

/-- The slots that `n` ROUNDs use from `RND = r` on (R32, R36). -/
def State.slots (s : State) (r n : Nat) : List Nat :=
  (List.range' r n).map fun r => if s.dir then s.nkeys.toNat - 1 - r else r

theorem State.slots_succ (s : State) (n : Nat) :
    s.slots s.rnd.toNat (n + 1) = s.roundSlot :: s.slots (s.rnd.toNat + 1) n := rfl

theorem State.slots_congr {s t : State} (hdir : t.dir = s.dir) (hnkeys : t.nkeys = s.nkeys) (r n : Nat) :
    t.slots r n = s.slots r n := by
  rw [State.slots, State.slots, hdir, hnkeys]

/-- From the first round on: the encode order, or the decode order where `DIR` is set (R138, R139). -/
theorem State.slots_zero (s : State) :
    s.slots 0 s.nkeys.toNat = if s.dir then Units.backward s.nkeys.toNat else Units.forward s.nkeys.toNat := by
  cases hdir : s.dir with
  | false => simp [State.slots, hdir, Units.forward, List.range_eq_range']
  | true =>
    simp [State.slots, hdir, Units.backward, List.range_eq_range', List.reverse_range']

theorem State.keyList_length (s : State) : s.keyList.length = s.nkeys.toNat := by
  rw [State.keyList, List.length_map, List.length_range]

theorem State.keyList_getD {s : State} {k : Nat} (hk : k < s.nkeys.toNat) : s.keyList.getD k [] = s.key k := by
  rw [List.getD_eq_getElem _ _ (by rwa [s.keyList_length])]
  simp [State.keyList]

theorem manyRounds_one (s : State) : manyRounds 1 s = oneRound s := bind_pure _

/-- ROUNDs in a row are rounds of the cipher in the order of `DIR` (R137, R200, R202). -/
theorem manyRounds_agrees : ∀ (n : Nat) {s : State}, s.inRange → s.rnd.toNat + (n + 1) ≤ s.nkeys.toNat →
    Agrees (s.RoundsDone (n + 1)) (manyRounds (n + 1) s)
      (Units.rounds s.hash s.straps s.keyList (s.slots s.rnd.toNat (n + 1)) s.leftHalf s.rightHalf)
  | 0, s, hs, hn => by
    have hslot := s.roundSlot_lt (by omega)
    rw [manyRounds_one, State.slots_succ]
    change Agrees _ _ (Units.rounds _ _ _ [_] _ _)
    rw [Units.rounds_singleton, State.keyList_getD hslot]
    exact oneRound_agrees hs (by omega)
  | n + 1, s, hs, hn => by
    have ⟨_, _, _, _, hnkeys, _⟩ := hs
    have hslot := s.roundSlot_lt (by omega)
    rw [manyRounds, State.slots_succ, Units.rounds, State.keyList_getD hslot]
    refine (oneRound_agrees hs (by omega)).bind fun t p hstep ht => ?_
    have hregs := ht.regs
    have hworked := oneRound_sound.worked s t hs hstep
    have hrnd : t.rnd.toNat = s.rnd.toNat + 1 :=
      (congrArg (BitVec.toNat ∘ State.rnd) hregs :).trans (toNat_ofNat_word (by omega))
    have ih := manyRounds_agrees n hworked.inRange (by rw [hrnd, hworked.nkeys]; omega)
    rw [(congrArg State.hash hregs :), (congrArg State.straps hregs :), hworked.inputsKept.keyList_eq hnkeys,
      State.slots_congr (congrArg State.dir hregs :) hworked.nkeys, hrnd, ht.leftHalf, ht.rightHalf] at ih
    refine ih.mono fun u q hu => ?_
    rw [Nat.add_comm (n + 1) 1]
    exact ht.trans hu hrnd

/-! #### Jobs -/

/-- SPLIT is done and left the halves `h` (R170). -/
structure State.SplitDone (s : State) (dir : Bool) (t : State) (h : Units.Halves) : Prop where
  regs : t = { s with mem := t.mem, hlen := BitVec.ofNat 16 (halfUp s.msgLen.toNat), flen := 0, rnd := 0,
                      padded := h.padded, dir := dir, stripped := false }
  leftHalf : t.leftHalf = h.left
  rightHalf : t.rightHalf = h.right
  frame : SameOutside s.mem t.mem [(Map.left, halfUp s.msgLen.toNat), (Map.right, halfUp s.msgLen.toNat)]

theorem State.message_length (s : State) : s.message.length = s.msgLen.toNat := s.bytes_length _ _

/-- The right half is as long as the left one (R116). -/
theorem State.rightHalf_exact (s : State) :
    s.msgLen.toNat - halfUp s.msgLen.toNat + (if s.paddedFlag then [s.straps.pad] else []).length
      = halfUp s.msgLen.toNat := by
  simp only [State.paddedFlag, isOdd, halfUp, beq_iff_eq]
  split
  · simp only [List.length_singleton]; omega
  · simp only [List.length_nil]; omega

/-- SPLIT cuts the message as `split` does, its error included (R114, R170). -/
theorem splitMessage_agrees (dir : Bool) {s : State} (hs : s.inRange) :
    Agrees (s.SplitDone dir) (splitMessage dir s) (Units.split s.straps.pad s.message) := by
  have ⟨hmsg, _⟩ := hs
  rw [splitMessage, Units.split, s.message_length]
  by_cases hshort : s.msgLen.toNat < Config.msgMin
  · rw [if_pos hshort, if_pos hshort]
    exact rfl
  · rw [if_neg hshort, if_neg hshort]
    have hhalf : halfUp s.msgLen.toNat ≤ s.msgLen.toNat ∧ halfUp s.msgLen.toNat ≤ 2048 := by
      rw [Config.msgMin] at hshort
      rw [halfUp]
      omega
    have hhlen := toNat_ofNat_word (hhalf.2.trans (by decide))
    have hleft : (s.bytes Map.msg (halfUp s.msgLen.toNat)).length = halfUp s.msgLen.toNat := s.bytes_length _ _
    have hright : (s.bytes (Map.msg + halfUp s.msgLen.toNat) (s.msgLen.toNat - halfUp s.msgLen.toNat) ++
        if s.paddedFlag then [s.straps.pad] else []).length = halfUp s.msgLen.toNat := by
      rw [List.length_append, State.bytes_length, s.rightHalf_exact]
    refine ⟨rfl, ?left, ?right, ?frame⟩
    case left =>
      refine (congrArg _ hhlen).trans (Eq.trans ?_ (Mem.slice_take _ _ _ _ hhalf.1).symm)
      refine (Mem.slice_put_disjoint _ _ _ _ _ (.inl ?_)).trans (Mem.slice_put_same _ _ _ _ hleft)
      simp only [Map.left, Map.right]
      omega
    case right =>
      refine (congrArg _ hhlen).trans (Eq.trans ?_ (congrArg (· ++ _) (Mem.slice_drop _ _ _ _ hhalf.1).symm))
      exact Mem.slice_put_same _ _ _ _ hright
    case frame =>
      exact ((SameOutside.refl _ _).put (r := (Map.left, halfUp s.msgLen.toNat)) (by simp) le_rfl
        (by rw [hleft])).put (r := (Map.right, halfUp s.msgLen.toNat)) (by simp) le_rfl (by rw [hright])

/-- A job is done: `OUT` holds the string `c.1`, and `PADDED` is `c.2` (R200). -/
structure State.JobDone (s : State) (dir : Bool) (t : State) (c : List Byte × Bool) : Prop where
  regs : t = { s with mem := t.mem, hlen := BitVec.ofNat 16 (halfUp s.msgLen.toNat),
                      flen := BitVec.ofNat 16 (halfUp s.msgLen.toNat), rnd := s.nkeys, blkLen := 64, padded := c.2,
                      dir := dir, stripped := false, outLen := BitVec.ofNat 16 (2 * halfUp s.msgLen.toNat) }
  output : t.output = c.1
  frame : SameOutside s.mem t.mem ((Map.out, 2 * halfUp s.msgLen.toNat) :: roundBuffers (halfUp s.msgLen.toNat))

theorem joinHalves_output {s : State} (hs : s.hlen.toNat ≤ 2048) :
    (joinHalves s).output = s.rightHalf ++ s.leftHalf := by
  have hlen : (joinHalves s).outLen.toNat = 2 * s.hlen.toNat := toNat_ofNat_word (by omega)
  rw [State.output, hlen]
  refine Mem.slice_put_same _ _ _ _ ?_
  rw [List.length_append, State.rightHalf_length, State.leftHalf_length]
  omega

/-- What ENCODE and DECODE share computes what `encode` and `decode` share, the errors included (R138, R139, R200,
R202). -/
theorem runJob_agrees (dir : Bool) {s : State} (hs : s.inRange) :
    Agrees (s.JobDone dir) (runJob dir s)
      (Units.run s.hash s.straps s.message s.keyList
        (if dir then Units.backward s.nkeys.toNat else Units.forward s.nkeys.toNat)) := by
  have ⟨hmsg, _, _, _, hnkeys, _⟩ := hs
  rw [runJob, Units.run, s.keyList_length]
  by_cases hzero : s.nkeys.toNat = 0
  · rw [if_pos hzero, if_pos hzero]
    exact rfl
  rw [if_neg hzero, if_neg hzero]
  refine (splitMessage_agrees dir hs).bind fun t h hstep ht => ?_
  obtain ⟨n, hn⟩ := Nat.exists_eq_add_one_of_ne_zero hzero
  have hregs := ht.regs
  have hworked := (splitMessage_sound dir).worked s t hs hstep
  have hrnd : t.rnd.toNat = 0 := (congrArg (BitVec.toNat ∘ State.rnd) hregs :)
  have hdir : t.dir = dir := (congrArg State.dir hregs :)
  have hslots := t.slots_zero
  have hrounds := manyRounds_agrees n hworked.inRange (by rw [hrnd, hworked.nkeys]; omega)
  rw [hworked.nkeys, hdir] at hslots
  rw [(congrArg State.hash hregs :), (congrArg State.straps hregs :), hworked.inputsKept.keyList_eq hnkeys,
    hrnd, ← hn, hslots, ht.leftHalf, ht.rightHalf] at hrounds
  refine hrounds.bind fun u p _ hu => ?_
  have hthlen : t.hlen.toNat = halfUp s.msgLen.toNat :=
    (congrArg (BitVec.toNat ∘ State.hlen) hregs :).trans (toNat_ofNat_word (by rw [halfUp]; omega))
  have huhlen : u.hlen.toNat = halfUp s.msgLen.toNat := (congrArg (BitVec.toNat ∘ State.hlen) hu.regs :).trans hthlen
  have hhalf : u.hlen.toNat ≤ 2048 := by rw [huhlen, halfUp]; omega
  refine ⟨?regs, (joinHalves_output hhalf).trans (by rw [hu.leftHalf, hu.rightHalf]), ?frame⟩
  case regs =>
    rw [joinHalves, huhlen, hu.regs, hrnd, Nat.zero_add, BitVec.ofNat_toNat, BitVec.setWidth_eq, hregs]
    rfl
  case frame =>
    have hframe := hu.frame
    rw [hthlen] at hframe
    refine ((ht.frame.mono (by simp [roundBuffers])).trans (hframe.mono (List.subset_cons_self _ _))).put
      List.mem_cons_self le_rfl ?_
    rw [List.length_append, State.rightHalf_length, State.leftHalf_length, huhlen, Nat.two_mul]

theorem State.output_length (s : State) : s.output.length = s.outLen.toNat := s.bytes_length _ _

/-- The PaddingTracker's condition, on the registers and on the output string (R141, R180). -/
theorem State.strippedFlag_eq_strips (s : State) (oob odd : Bool) :
    s.strippedFlag oob odd = Units.strips s.straps.pad s.output oob odd := by
  rw [State.strippedFlag, Units.strips, s.output_length]
  by_cases hne : 1 ≤ s.outLen.toNat
  · have hlast : s.output.getLast? = some (s.byteAt (Map.out + (s.outLen.toNat - 1))) := by
      rw [List.getLast?_eq_getElem?, s.output_length, List.getElem?_eq_getElem (by rw [s.output_length]; omega)]
      exact congrArg some (Mem.getElem_slice ..)
    rw [hlast]
    simp
  · simp [hne]

/-- STRIP computes the PaddingTracker's function of the output string (R141, R180). -/
theorem stripOutput_computes (oob odd : Bool) (s : State) :
    Units.strip s.straps.pad s.output oob odd =
      ((stripOutput oob odd s).output, (stripOutput oob odd s).stripped) := by
  rw [Units.strip, ← s.strippedFlag_eq_strips]
  obtain ⟨hflag, hstrip⟩ | ⟨hflag, hstrip⟩ := stripOutput_cases oob odd s
  · have hpred : (BitVec.ofNat 16 (s.outLen.toNat - 1) : Word).toNat = s.outLen.toNat - 1 :=
      Nat.mod_eq_of_lt (by omega)
    rw [if_pos hflag, hstrip, s.output_length]
    refine congrArg (·, true) ((Mem.slice_take _ _ _ _ (Nat.sub_le _ _)).trans ?_)
    exact congrArg _ hpred.symm
  · rw [if_neg (by rw [hflag]; decide), hstrip]
    rfl

/-- DECODE computes `decode`, its errors included (R139, R202). -/
theorem decodeJob_agrees (oob odd : Bool) {s : State} (hs : s.inRange) :
    Agrees (fun t d => (t.output, t.stripped) = d) (decodeJob oob odd s)
      (Units.decode s.hash s.straps s.message s.keyList oob odd) := by
  rw [Units.decode_eq_run, s.keyList_length, decodeJob]
  refine (runJob_agrees true hs).bind fun t c _ ht => ?_
  have hstraps : t.straps = s.straps := (congrArg State.straps ht.regs :)
  have hstrip := stripOutput_computes oob odd t
  rw [hstraps, ht.output] at hstrip
  exact hstrip.symm

/-! #### The obligation -/

/-- ENCODE of a ready job leaves the cipher text in `OUT` and the parity in `PADDED` (R200). -/
theorem runJob_of_encode {s : State} (hs : s.inRange) {c : List Byte} {p : Bool}
    (h : Units.encode s.hash s.straps s.message s.keyList = .ok (c, p)) :
    ∃ t, runJob false s = .ok t ∧ s.JobDone false t (c, p) := by
  rw [Units.encode_eq_run, s.keyList_length] at h
  exact (runJob_agrees false hs).exists_ok h

/-- The host's copy of a string into the message buffer (R297). -/
def State.withMessage (s : State) (bs : List Byte) (n : Word) : State :=
  { s with mem := s.mem.put Map.msg bs, msgLen := n }

theorem State.withMessage_message (s : State) {bs : List Byte} {n : Word} (hlen : bs.length = n.toNat) :
    (s.withMessage bs n).message = bs := Mem.slice_put_same _ _ _ _ hlen

/-- Legal keys lie below the message buffer (R66). -/
theorem State.withMessage_keyList {s : State} (hnkeys : s.nkeys.toNat ≤ 32)
    (hkeys : ∀ k < s.nkeys.toNat, s.klen k ≤ 64) (bs : List Byte) (n : Word) :
    (s.withMessage bs n).keyList = s.keyList := by
  refine List.map_congr_left fun k hk => ?_
  rw [List.mem_range] at hk
  have hklenMax := hkeys k hk
  have hslot : k < 32 := by
    change k < s.nkeys.toNat at hk
    omega
  have hklen : (s.withMessage bs n).klen k = s.klen k :=
    congrArg BitVec.toNat (Mem.get_put_out _ _ _ _ (.inl (by simp only [Map.klen, Map.msg]; omega)))
  rw [State.key, State.key, hklen]
  exact Mem.slice_put_disjoint _ _ _ _ _ (.inl (by simp only [Map.keymem, Map.msg]; omega))

theorem exec_decodeOf_outOfBand (odd : Bool) (s : State) :
    exec (Pseudo.decodeOf true odd) s = runCommand s (decodeJob true odd) := by
  cases odd <;> rfl

/-- Settles O60: ENCODE computes `encode`, DECODE computes `decode`, and the cipher's round trip (R142) says what that
gives. -/
theorem engineRoundTrip : Obligations.EngineRoundTrip := by
  rintro s ⟨hs, -⟩ ⟨hready, hnkeys, hkeys, hmsg, hsecret⟩
  have ⟨_, _, _, _, hnkeysMax, _⟩ := hs
  obtain ⟨c, hencode, -, hdecode⟩ := Units.decode_encode s.hash ((secretLegal_iff _).2 hsecret) (m := s.message)
    (by rwa [s.message_length]) (keys := s.keyList) (by rwa [s.keyList_length]) fun key hkey => by
      obtain ⟨k, hk, rfl⟩ := List.mem_map.1 hkey
      rw [s.key_length]
      exact (keyLenLegal_iff _).2 (hkeys k (List.mem_range.1 hk))
  obtain ⟨t, hjob, ht⟩ := runJob_of_encode hs hencode
  have hpadded : t.padded = isOdd s.message.length := (congrArg State.padded ht.regs :)
  have hworked := (runJob_sound false).worked s t hs hjob
  have hkept := hworked.inputsKept
  have ⟨_, hout, hrest⟩ := hworked.inRange
  have hcopied : (t.withMessage t.output t.outLen).inRange := ⟨hout, hout, hrest⟩
  have hmessage : (t.withMessage t.output t.outLen).message = c :=
    (t.withMessage_message t.output_length).trans ht.output
  have hkeyList : (t.withMessage t.output t.outLen).keyList = s.keyList := by
    refine (State.withMessage_keyList (by rwa [hkept.nkeys]) (fun k hk => ?_) _ _).trans (hkept.keyList_eq hnkeysMax)
    rw [hkept.nkeys] at hk
    rw [hkept.klen_eq (by omega)]
    exact (hkeys k hk).2
  have hhash : (t.withMessage t.output t.outLen).hash = s.hash := (congrArg State.hash ht.regs :)
  have hstraps : (t.withMessage t.output t.outLen).straps = s.straps := (congrArg State.straps ht.regs :)
  have hround := hdecode true t.padded
  rw [hpadded, Units.strip_outOfBand, ← hpadded, ← hhash, ← hstraps, ← hmessage, ← hkeyList] at hround
  obtain ⟨v, hv, hresult⟩ := (decodeJob_agrees true t.padded hcopied).exists_ok hround
  have herr : v.err = false :=
    ((decodeJob_sound true t.padded).worked _ v hcopied hv).err.trans (hworked.err.trans hready)
  obtain ⟨houtput, hstripped⟩ := Prod.mk.inj hresult
  refine ⟨t, v, runCommand_of_ok s _ t hready hjob, ?_, herr, houtput, hstripped⟩
  rw [exec_decodeOf_outOfBand]
  exact runCommand_of_ok _ _ v (hworked.err.trans hready) hv

end Sys2Proof.Machine

namespace Sys2Proof.Machine

/-! ### The unit commands

The obligations O37 to O41 (41_unit_commands.md R150 to R158). Each command stores one string: the string reads back,
the rest of the storage stands. The laws of the effects say when each succeeds and with which state; what is left is
which error each failing test raises. -/

/-- A string stored reads back, and no byte outside it changes. -/
theorem Mem.put_stores (m : Mem) (a : Nat) {n : Nat} {bs : List Byte} (h : bs.length = n) :
    (m.put a bs).slice a n = bs ∧ SameOutside m (m.put a bs) [(a, n)] :=
  ⟨m.slice_put_same a n bs h, (SameOutside.refl m _).put List.mem_cons_self le_rfl (by rw [h])⟩

/-! #### The errors -/

theorem loadBlock_of_noBlock {i : Nat} {s : State} (h : s.hlen.toNat ≤ 64 * i) :
    loadBlock i s = .error (.indexRange i) := if_pos ((s.noBlock_iff i).2 h)

theorem emitBlock_of_noBlock {i : Nat} {s : State} (h : s.hlen.toNat ≤ 64 * i) :
    emitBlock i s = .error (.indexRange i) := if_pos ((s.noBlock_iff i).2 h)

theorem padBlock_of_badLength {s : State} (h : s.blkLen.toNat = 0 ∨ 64 < s.blkLen.toNat) :
    padBlock s = .error (.badPadTarget s.blkLen.toNat) := if_pos h

theorem saltBlock_of_badLength {s : State} (h : s.blkLen.toNat ≠ 64) :
    saltBlock s = .error (.badBlockSize s.blkLen.toNat) := if_pos h

theorem saltBlock_of_badSecret {s : State} (h : s.blkLen.toNat = 64) (hsecret : ¬ s.secretUsable) :
    saltBlock s = .error (.badSecretLength s.straps.secretLen.toNat) :=
  (if_neg (not_not.2 h)).trans (if_neg (mt (secretLegal_iff _).1 hsecret))

theorem State.checkKey_of_noSlot {s : State} {k : Nat} (hk : s.nkeys.toNat ≤ k) :
    s.checkKey k = .error (.indexRange k) := if_pos hk

theorem State.checkKey_of_badKey {s : State} {k : Nat} (hk : k < s.nkeys.toNat)
    (hklen : s.klen k < 1 ∨ 64 < s.klen k) : s.checkKey k = .error (.badKeyLength k (s.klen k)) := by
  rw [State.checkKey_of_lt hk, if_neg (by rw [keyLenLegal_iff]; omega)]

/-- HASH checks its key first (R156, R162). -/
theorem hashBlock_of_checkKey {s : State} {k : Nat} {e : CmdError} (h : s.checkKey k = .error e) :
    hashBlock k s = .error e := (bind_error_iff _ _ _).2 (.inl h)

theorem hashBlock_of_badLength {s : State} {k : Nat} (hk : s.keyUsable k) (h : s.blkLen.toNat ≠ 64) :
    hashBlock k s = .error (.badBlockSize s.blkLen.toNat) :=
  (bind_error_iff _ _ _).2 (.inr ⟨s.key k, (s.checkKey_ok_iff k _).2 ⟨hk.1, hk.2, rfl⟩, if_pos h⟩)

/-! #### The padded block -/

/-- The bytes BLKPAD stores are all `PAD` (R152). -/
theorem Mem.get_put_replicate (m : Mem) {a n x : Nat} (c : Byte) (h : a ≤ x) (h' : x < a + n) :
    (m.put a (List.replicate n c)).get x = c := by
  rw [Mem.get_put_in _ _ _ _ h (by rwa [List.length_replicate]), List.getD_replicate _ (by omega)]

/-- A string in storage is padded in its place by storing the pad bytes behind it (R122, R152). -/
theorem Mem.pad_slice (m : Mem) (a : Nat) {n size : Nat} (c : Byte) (hn : 1 ≤ n) (hsize : n ≤ size) :
    Units.pad (m.slice a n) size c =
      .ok ((m.put (a + n) (List.replicate (size - n) c)).slice a size) := by
  have hparts : (m.put (a + n) (List.replicate (size - n) c)).slice a (n + (size - n)) =
      m.slice a n ++ List.replicate (size - n) c := by
    rw [Mem.slice_add, Mem.slice_put_disjoint _ _ _ _ _ (.inl le_rfl),
      Mem.slice_put_same _ _ _ _ List.length_replicate]
  rw [Nat.add_sub_cancel' hsize] at hparts
  rw [Units.pad_of_fits (by rwa [Mem.slice_length]) (by rwa [Mem.slice_length]), Mem.slice_length, hparts]

/-! #### The obligations -/

/-- Settles O37: the block of `R` as BLKLOAD stores it, or the index the half has no block for. -/
theorem blkloadCopiesBlock : Obligations.BlkloadCopiesBlock := by
  refine ⟨fun _ _ => rfl, fun s i hready => ⟨fun hnone => ?_, fun hblock => ?_⟩⟩
  · exact runCommand_of_error s _ _ hready (loadBlock_of_noBlock hnone)
  · exact ⟨_, runCommand_of_ok s _ _ hready ((loadBlock_ok_iff i s _).2 ⟨hblock, rfl⟩),
      s.mem.put_stores Map.blk (s.bytes_length _ _)⟩

/-- Settles O38: the pad bytes BLKPAD stores complete the block, where its length is 1 to 64. -/
theorem blkpadFillsBlock : Obligations.BlkpadFillsBlock := by
  refine ⟨rfl, fun s hready => ⟨fun hbad => ?_, fun hmin hmax => ?_⟩⟩
  · exact runCommand_of_error s _ _ hready (padBlock_of_badLength hbad)
  · have hframe := (s.mem.put_stores (Map.blk + s.blkLen.toNat)
      (bs := List.replicate (64 - s.blkLen.toNat) s.straps.pad) List.length_replicate).2
    refine ⟨_, runCommand_of_ok s _ _ hready ((padBlock_ok_iff s _).2 ⟨⟨hmin, hmax⟩, rfl⟩), fun j hj hj64 => ?_,
      hframe, s.mem.pad_slice Map.blk s.straps.pad hmin hmax⟩
    exact s.mem.get_put_replicate _ (by omega) (by omega)

/-- Settles O39: the two errors in their order, and the salt as SALT stores it. -/
theorem saltWritesDerivedSalt : Obligations.SaltWritesDerivedSalt := by
  refine ⟨rfl, fun s hready => ⟨fun hlen => ?_, fun hlen hsecret => ?_, fun hlen hsecret => ?_⟩⟩
  · exact runCommand_of_error s _ _ hready (saltBlock_of_badLength hlen)
  · exact runCommand_of_error s _ _ hready (saltBlock_of_badSecret hlen hsecret)
  · have hlegal := (secretLegal_iff s.straps).2 hsecret
    exact ⟨_, runCommand_of_ok s _ _ hready ((saltBlock_ok_iff s _).2 ⟨hlen, hlegal, rfl⟩),
      s.mem.put_stores Map.salt Vector.length_toList⟩

/-- Settles O40: the errors of the key, that of the block, and the digest as HASH stores it. -/
theorem hashWritesDigest : Obligations.HashWritesDigest := by
  refine ⟨fun _ _ => rfl, fun s k hready =>
    ⟨fun hslot => ?_, fun hslot hkey => ?_, fun hkey hlen => ?_, fun hkey hlen => ?_⟩⟩
  · exact runCommand_of_error s _ _ hready (hashBlock_of_checkKey (State.checkKey_of_noSlot hslot))
  · exact runCommand_of_error s _ _ hready (hashBlock_of_checkKey (State.checkKey_of_badKey hslot hkey))
  · exact runCommand_of_error s _ _ hready (hashBlock_of_badLength hkey hlen)
  · exact ⟨_, runCommand_of_ok s _ _ hready ((hashBlock_ok_iff k s _).2 ⟨hkey, hlen, rfl⟩),
      s.mem.put_stores Map.dig Vector.length_toList⟩

/-- Settles O41: the cut digest as EMIT stores it, or the index the half has no block for. -/
theorem emitPlacesCutDigest : Obligations.EmitPlacesCutDigest := by
  refine ⟨fun _ _ => rfl, fun s i hready => ⟨fun hnone => ?_, fun hblock => ?_⟩⟩
  · exact runCommand_of_error s _ _ hready (emitBlock_of_noBlock hnone)
  · exact ⟨_, runCommand_of_ok s _ _ hready ((emitBlock_ok_iff i s _).2 ⟨hblock, rfl⟩),
      s.mem.put_stores (Map.fout + 64 * i) (s.bytes_length _ _)⟩

end Sys2Proof.Machine

namespace Sys2Proof.Machine

/-! ### Command sequences

The obligation O56 (41_unit_commands.md R160). Each command of a sequence is issued by itself, so it is a test of
`ERR` and a new word in `CMD`, and then its effect. Effects that succeed know nothing of either, so a sequence carries
out its effects one after the other. -/

/-! #### Effects that know nothing of `CMD` and `ERR` -/

/-- The effect of a command, where it succeeds, does not depend on the command word and leaves `ERR`. -/
structure PlainEffect (body : State → Result State) : Prop where
  setCmd : ∀ s t w, body s = .ok t → body (s.setCmd w) = .ok (t.setCmd w)
  err : ∀ s t, body s = .ok t → t.err = s.err

theorem PlainEffect.ok {f : State → State} (hcmd : ∀ s w, f (State.setCmd s w) = (f s).setCmd w)
    (herr : ∀ s : State, (f s).err = s.err) : PlainEffect (fun s => .ok (f s)) where
  setCmd s t w h := by cases h; exact congrArg Except.ok (hcmd s w)
  err s t h := by cases h; exact herr s

theorem PlainEffect.bind {f g : State → Result State} (hf : PlainEffect f) (hg : PlainEffect g) :
    PlainEffect (fun s => f s >>= g) where
  setCmd s t w h := by
    obtain ⟨u, hu, ht⟩ := (bind_ok_iff _ _ _).1 h
    exact (bind_ok_iff _ _ _).2 ⟨_, hf.setCmd s u w hu, hg.setCmd u t w ht⟩
  err s t h := by
    obtain ⟨u, hu, ht⟩ := (bind_ok_iff _ _ _).1 h
    exact (hg.err u t ht).trans (hf.err s u hu)

theorem loadBlock_plain (i : Nat) : PlainEffect (loadBlock i) where
  setCmd s t w h := by
    obtain ⟨hi, rfl⟩ := (loadBlock_ok_iff i s t).1 h
    exact (loadBlock_ok_iff i _ _).2 ⟨hi, rfl⟩
  err s t h := by
    obtain ⟨-, rfl⟩ := (loadBlock_ok_iff i s t).1 h
    rfl

theorem padBlock_plain : PlainEffect padBlock where
  setCmd s t w h := by
    obtain ⟨hlen, rfl⟩ := (padBlock_ok_iff s t).1 h
    exact (padBlock_ok_iff _ _).2 ⟨hlen, rfl⟩
  err s t h := by
    obtain ⟨-, rfl⟩ := (padBlock_ok_iff s t).1 h
    rfl

theorem saltBlock_plain : PlainEffect saltBlock where
  setCmd s t w h := by
    obtain ⟨hlen, hsecret, rfl⟩ := (saltBlock_ok_iff s t).1 h
    exact (saltBlock_ok_iff _ _).2 ⟨hlen, hsecret, rfl⟩
  err s t h := by
    obtain ⟨-, -, rfl⟩ := (saltBlock_ok_iff s t).1 h
    rfl

theorem hashBlock_plain (k : Nat) : PlainEffect (hashBlock k) where
  setCmd s t w h := by
    obtain ⟨hkey, hlen, rfl⟩ := (hashBlock_ok_iff k s t).1 h
    exact (hashBlock_ok_iff k _ _).2 ⟨hkey, hlen, rfl⟩
  err s t h := by
    obtain ⟨-, -, rfl⟩ := (hashBlock_ok_iff k s t).1 h
    rfl

theorem emitBlock_plain (i : Nat) : PlainEffect (emitBlock i) where
  setCmd s t w h := by
    obtain ⟨hi, rfl⟩ := (emitBlock_ok_iff i s t).1 h
    exact (emitBlock_ok_iff i _ _).2 ⟨hi, rfl⟩
  err s t h := by
    obtain ⟨-, rfl⟩ := (emitBlock_ok_iff i s t).1 h
    rfl

theorem functionBlock_plain (k i : Nat) : PlainEffect (functionBlock k i) :=
  (loadBlock_plain i).bind (padBlock_plain.bind (saltBlock_plain.bind ((hashBlock_plain k).bind (emitBlock_plain i))))

theorem functionBlocks_plain (k : Nat) : ∀ n i, PlainEffect (functionBlocks k n i)
  | 0, _ => .ok (fun _ _ => rfl) (fun _ => rfl)
  | n + 1, i => (functionBlock_plain k i).bind (functionBlocks_plain k n (i + 1))

theorem applyFunction_plain (k : Nat) : PlainEffect (applyFunction k) where
  setCmd s t w h := by
    obtain ⟨hkey, hhalf, hblocks⟩ := (applyFunction_ok_iff k s t).1 h
    exact (applyFunction_ok_iff k _ _).2 ⟨hkey, hhalf, (functionBlocks_plain k _ 0).setCmd s t w hblocks⟩
  err s t h := by
    obtain ⟨-, -, hblocks⟩ := (applyFunction_ok_iff k s t).1 h
    exact (functionBlocks_plain k _ 0).err s t hblocks

/-! #### Sequences that carry out an effect -/

/-- The word `CMD` holds after the commands `is`, with `w` in it before (R38). -/
def lastWord (is : List Instr) (w : Word) : Word := is.foldl (fun _ i => encode i) w

/-- The sequence carries out the effect: where the effect succeeds, so does every command, and the state is that of
the effect but for `CMD` (R98). -/
def Carries (is : List Instr) (body : State → Result State) : Prop :=
  ∀ s t w, s.err = false → body s = .ok t → issueAll is (s.setCmd w) = .next (t.setCmd (lastWord is w))

theorem issueAll_append (is js : List Instr) {s t : State} (h : issueAll is s = .next t) :
    issueAll (is ++ js) s = issueAll js t := by
  induction is generalizing s with
  | nil => cases h; rfl
  | cons i is ih =>
    rw [List.cons_append, issueAll]
    rw [issueAll] at h
    cases hi : issue (encode i) s with
    | next u => rw [hi] at h; exact ih h
    | fault f => rw [hi] at h; cases h
    | refused r => rw [hi] at h; cases h

theorem Carries.nil : Carries [] .ok := by
  intro s t w _ h
  cases h
  rfl

theorem Carries.append {is js : List Instr} {f g : State → Result State} (hf : PlainEffect f) (h : Carries is f)
    (h' : Carries js g) : Carries (is ++ js) (fun s => f s >>= g) := by
  intro s t w hready hfg
  obtain ⟨u, hu, ht⟩ := (bind_ok_iff _ _ _).1 hfg
  rw [issueAll_append is js (h s u w hready hu), h' u t _ ((hf.err s u hu).trans hready) ht, lastWord, lastWord,
    lastWord, List.foldl_append]

/-- The issue of a command that has a word is its effect behind the gate (R90). -/
theorem issue_encode {i : Instr} (hwf : i.wellFormed = true) {body : State → Result State}
    (hexec : ∀ s, exec i s = runCommand s body) (hplain : PlainEffect body) {s t : State} (hready : s.err = false)
    (h : body s = .ok t) : issue (encode i) s = .next (t.setCmd (encode i)) := by
  rw [issue_of_decode _ _ _ (decodeOfEncode i hwf), hexec]
  exact runCommand_of_ok _ _ _ hready (hplain.setCmd s t _ h)

/-- A single command carries out its effect; the word it finds in `CMD` is gone. -/
theorem carries_command {i : Instr} (hwf : i.wellFormed = true) {body : State → Result State}
    (hexec : ∀ s, exec i s = runCommand s body) (hplain : PlainEffect body) : Carries [i] body := by
  intro s t w hready h
  rw [issueAll, issue_encode hwf hexec hplain (s := s.setCmd w) hready (hplain.setCmd s t w h)]
  rfl

/-- `FBLOCK k, i` carries out one block of the round function (R160). -/
theorem fblock_carries {k i : Nat} (hk : k < 256) (hi : i < 256) :
    Carries (Pseudo.fblock k i) (functionBlock k i) := by
  have hslot : argFits k = true := decide_eq_true hk
  have hindex : argFits i = true := decide_eq_true hi
  have hload := carries_command (i := .blkload i) hindex (fun _ => rfl) (loadBlock_plain i)
  have hpad := carries_command (i := .blkpad) rfl (fun _ => rfl) padBlock_plain
  have hsalt := carries_command (i := .salt) rfl (fun _ => rfl) saltBlock_plain
  have hhash := carries_command (i := .hash k) hslot (fun _ => rfl) (hashBlock_plain k)
  have hemit := carries_command (i := .emit i) hindex (fun _ => rfl) (emitBlock_plain i)
  exact hload.append (loadBlock_plain i) <| hpad.append padBlock_plain <| hsalt.append saltBlock_plain <|
    hhash.append (hashBlock_plain k) hemit

/-- `FBLOCK`s in a row carry out the loop of FAPPLY (R160, R172). -/
theorem fblocks_carries {k : Nat} (hk : k < 256) :
    ∀ n i, i + n ≤ 256 → Carries (Pseudo.fblocks k n i) (functionBlocks k n i)
  | 0, _, _ => Carries.nil
  | n + 1, i, hn =>
    (fblock_carries hk (by omega)).append (functionBlock_plain k i) (fblocks_carries hk n (i + 1) (by omega))

/-! #### The obligation -/

/-- One block of the round function succeeds on legal operands and leaves its block of the output in `FOUT`
(R126 (c), R160). -/
theorem functionBlock_of_legal {s : State} (hs : s.inRange) {k i : Nat} (hk : s.keyUsable k)
    (hsecret : s.secretUsable) (hi : 64 * i < s.hlen.toNat) :
    ∃ t, functionBlock k i s = .ok t ∧ t.mem.slice (Map.fout + 64 * i) (s.blockLen i) =
      Units.block (Units.functionValue s.hash s.straps s.rightHalf (s.key k)) i := by
  have hblock : 1 ≤ (Units.block s.rightHalf i).length ∧ (Units.block s.rightHalf i).length ≤ 64 := by
    rw [Units.block_length, State.rightHalf_length]
    omega
  have houtput := Units.blockOutput_of_block s.hash s.straps (s.key k) hblock.1 hblock.2
  rw [if_pos ((secretLegal_iff _).2 hsecret)] at houtput
  obtain ⟨t, hok, ht⟩ := (functionBlock_agrees hs hk hi).exists_ok houtput
  have hlen : s.blockEnd i - 64 * i = s.blockLen i := by
    rw [← s.blockOffset_add_blockLen hi, blockOffset, Config.blockSize, Nat.add_sub_cancel_left]
  have hfout := ht.fout
  rw [hlen, ← Units.functionValue_block s.hash s.straps s.rightHalf (s.key k)
    (by rwa [State.rightHalf_length, Units.lt_blockCount_iff])] at hfout
  exact ⟨t, hok, hfout⟩

/-- Block `i` of a string as long as the half has the length BLKLOAD and EMIT give it (R121, R150). -/
theorem State.block_eq_take_blockLen {s : State} {out : List Byte} (hout : out.length = s.hlen.toNat) (i : Nat) :
    Units.block out i = (out.drop (64 * i)).take (s.blockLen i) := by
  rw [Units.block, List.take_eq_take_min, List.length_drop, hout]
  rfl

/-- Settles O56: the `FBLOCK`s carry out the loop of FAPPLY, which computes the round function block by block. -/
theorem fblocksEqualFapply : Obligations.FblocksEqualFapply := by
  rintro s k ⟨hs, -⟩ hready hk hhalf hsecret
  have ⟨_, _, hhlen, _, hnkeys, _⟩ := hs
  obtain ⟨hslot, hklen⟩ := hk
  have hfunction := Units.roundFunction_of_legal s.hash ((secretLegal_iff _).2 hsecret) (half := s.rightHalf)
    (by rwa [State.rightHalf_length]) k (key := s.key k) (by rwa [State.key_length, keyLenLegal_iff])
  have hlen := (Units.functionValue_length s.hash s.straps s.rightHalf (s.key k)).trans s.rightHalf_length
  refine ⟨_, hfunction, fun i hi => ?oneBlock, ?allBlocks⟩
  case oneBlock =>
    rw [Units.lt_blockCount_iff] at hi
    obtain ⟨t, hblock, hfout⟩ := functionBlock_of_legal hs ⟨hslot, hklen⟩ hsecret hi
    refine ⟨_, fblock_carries (by omega) (by omega) s t s.cmd hready hblock,
      ((functionBlock_plain k i).err s t hblock).trans hready, ?_⟩
    rw [← State.block_eq_take_blockLen hlen]
    exact hfout
  case allBlocks =>
    obtain ⟨t, happly, ht⟩ := (applyFunction_agrees hs hslot).exists_ok hfunction
    obtain ⟨-, -, hblocks⟩ := (applyFunction_ok_iff k s t).1 happly
    have hflen : t.flen = s.hlen := (congrArg State.flen ht.regs :)
    have hcount : 0 + blockCount s.hlen.toNat ≤ 256 := by rw [blockCount]; omega
    have hwf : (Instr.fapply k).wellFormed = true := decide_eq_true (by omega)
    refine ⟨_, _, fblocks_carries (by omega) _ 0 hcount s t s.cmd hready hblocks,
      issue_encode hwf (fun _ => rfl) (applyFunction_plain k) hready happly,
      ((applyFunction_plain k).err s t happly).trans hready, hflen, ?_, rfl⟩
    rw [← ht.fOutput, State.fOutput, hflen]
    rfl

end Sys2Proof.Machine

namespace Sys2Proof.Machine

/-! ### The round commands

The obligations O42 to O51 (42_round_commands.md R170 to R180). Where a round command succeeds, what it computes stands
in the agreements above: SPLIT with `split`, FAPPLY with the round function, ROUND with a round of the cipher, STRIP
with the PaddingTracker. What is left is which error each failing test raises, the frames of the commands that move
bytes alone, and what ROUND leaves of FAPPLY's buffers. -/

/-! #### The registers -/

/-- A register counts up as its number does (R12). -/
theorem ofNat_toNat_add_one (w : Word) : (BitVec.ofNat 16 (w.toNat + 1) : Word) = w + 1 := by
  rw [BitVec.ofNat_add, BitVec.ofNat_toNat, BitVec.setWidth_eq]
  rfl

theorem ofNat_toNat_sub_one {w : Word} (hw : 1 ≤ w.toNat) : (BitVec.ofNat 16 (w.toNat - 1) : Word) = w - 1 := by
  have hsub := BitVec.ofNat_sub_ofNat_of_le (w := 16) w.toNat 1 (by decide) hw
  rw [BitVec.ofNat_toNat, BitVec.setWidth_eq] at hsub
  exact hsub.symm

theorem ofNat_two_mul_toNat (w : Word) : (BitVec.ofNat 16 (2 * w.toNat) : Word) = 2 * w := by
  rw [BitVec.ofNat_mul, BitVec.ofNat_toNat, BitVec.setWidth_eq]
  rfl

/-! #### The errors -/

theorem splitMessage_of_short (dir : Bool) {s : State} (h : s.msgLen.toNat < 2) :
    splitMessage dir s = .error (.tooShort s.msgLen.toNat) := if_pos h

theorem xorLeft_of_lengthMismatch {s : State} (h : s.flen ≠ s.hlen) :
    xorLeft s = .error (.lengthMismatch s.flen.toNat) := if_pos (mt BitVec.eq_of_toNat_eq h)

/-- FAPPLY checks its key first (R172). -/
theorem applyFunction_of_checkKey {s : State} {k : Nat} {e : CmdError} (h : s.checkKey k = .error e) :
    applyFunction k s = .error e := (bind_error_iff _ _ _).2 (.inl h)

theorem applyFunction_of_keyUsable {s : State} {k : Nat} (hk : s.keyUsable k) :
    applyFunction k s =
      if s.hlen.toNat = 0 then .error .emptyHalf else functionBlocks k (blockCount s.hlen.toNat) 0 s := by
  rw [applyFunction, (s.checkKey_ok_iff k _).2 ⟨hk.1, hk.2, rfl⟩]
  rfl

theorem applyFunction_of_emptyHalf {s : State} {k : Nat} (hk : s.keyUsable k) (h : s.hlen.toNat = 0) :
    applyFunction k s = .error .emptyHalf := (applyFunction_of_keyUsable hk).trans (if_pos h)

/-- A block is loaded and padded before SALT looks at the Secret (R160). -/
theorem functionBlock_of_badSecret {s : State} (k : Nat) {i : Nat} (hi : 64 * i < s.hlen.toNat)
    (hsecret : ¬ s.secretUsable) :
    functionBlock k i s = .error (.badSecretLength s.straps.secretLen.toNat) := by
  obtain ⟨t, hload, ht⟩ := loadBlock_padBlock hi
  have hstraps : t.straps = s.straps := (congrArg State.straps ht.regs :)
  have hsalt := saltBlock_of_badSecret (s := t) (congrArg (BitVec.toNat ∘ State.blkLen) ht.regs :)
    (by rwa [State.secretUsable, hstraps])
  rw [functionBlock_of_padded hload, hsalt, hstraps]
  rfl

/-- The Secret is looked at with the first block already (R172). -/
theorem applyFunction_of_badSecret {s : State} {k : Nat} (hk : s.keyUsable k) (hhalf : 1 ≤ s.hlen.toNat)
    (hsecret : ¬ s.secretUsable) :
    applyFunction k s = .error (.badSecretLength s.straps.secretLen.toNat) := by
  obtain ⟨n, hn⟩ := Nat.exists_eq_add_one_of_ne_zero
    (Nat.ne_of_gt ((Units.lt_blockCount_iff s.hlen.toNat 0).2 (by omega)))
  rw [applyFunction_of_keyUsable hk, if_neg (by omega), hn]
  exact (bind_error_iff _ _ _).2 (.inl (functionBlock_of_badSecret k (by omega) hsecret))

theorem oneRound_of_overrun {s : State} (h : s.nkeys.toNat ≤ s.rnd.toNat) :
    oneRound s = .error (.roundOverrun s.rnd.toNat) := if_pos h

/-- A ROUND that may run fails with the error FAPPLY has for its slot (R176). -/
theorem oneRound_of_applyFunction {s : State} (hrnd : s.rnd.toNat < s.nkeys.toNat) {e : CmdError}
    (h : applyFunction s.roundSlot s = .error e) : oneRound s = .error e := by
  rw [oneRound, if_neg (not_le.2 hrnd)]
  exact (bind_error_iff _ _ _).2 (.inl h)

/-! #### What SPLIT, XORL, SWAP and JOIN move -/

/-- A gated command that cannot fail. -/
theorem runCommand_of_total (f : State → State) {s : State} (hready : s.err = false) :
    runCommand s (fun s => .ok (f s)) = .next (f s) := runCommand_of_ok s _ _ hready rfl

/-- SPLIT on a message of two bytes or more succeeds, and the halves are read off the message buffer (R170). -/
theorem splitMessage_of_two_le (dir : Bool) {s : State} (hs : s.inRange) (hmsg : 2 ≤ s.msgLen.toNat) :
    ∃ t, splitMessage dir s = .ok t ∧
      s.SplitDone dir t
        { left := s.bytes Map.msg (halfUp s.msgLen.toNat)
          right := s.bytes (Map.msg + halfUp s.msgLen.toNat) (s.msgLen.toNat - halfUp s.msgLen.toNat) ++
            if isOdd s.msgLen.toNat then [s.straps.pad] else []
          padded := isOdd s.msgLen.toNat } := by
  have hhalf : halfUp s.msgLen.toNat ≤ s.msgLen.toNat := by rw [halfUp]; omega
  refine (splitMessage_agrees dir hs).exists_ok ?_
  rw [Units.split, s.message_length, if_neg (not_lt.2 hmsg)]
  have hfirst : s.message.take (halfUp s.msgLen.toNat) = s.bytes Map.msg _ := Mem.slice_take _ _ _ _ hhalf
  have hlast : s.message.drop (halfUp s.msgLen.toNat) = s.bytes (Map.msg + _) _ := Mem.slice_drop _ _ _ _ hhalf
  rw [← hfirst, ← hlast]

/-- A combined string as stored, byte by byte (R130, R173). -/
theorem Mem.get_put_xorBytes (m : Mem) {a n j : Nat} (b c : Nat) (hj : j < n) :
    (m.put a (Units.xorBytes (m.slice b n) (m.slice c n))).get (a + j) = m.get (b + j) ^^^ m.get (c + j) := by
  have hlen : j < (Units.xorBytes (m.slice b n) (m.slice c n)).length := by simpa using hj
  rw [Mem.get_put_in _ _ _ _ (by omega) (by omega), Nat.add_sub_cancel_left, List.getD_eq_getElem _ _ hlen,
    Units.getElem_xorBytes, Mem.getElem_slice, Mem.getElem_slice]

/-- SWAP writes the halves alone (R174). -/
theorem swapHalves_sameOutside (s : State) :
    SameOutside s.mem (swapHalves s).mem [(Map.left, s.hlen.toNat), (Map.right, s.hlen.toNat)] :=
  ((SameOutside.refl _ _).put List.mem_cons_self le_rfl (by rw [s.rightHalf_length])).put
    (r := (Map.right, s.hlen.toNat)) (by simp) le_rfl (by rw [s.leftHalf_length])

/-- Two strings of one length stored one behind the other read back each (R178). -/
theorem Mem.slices_put_append (m : Mem) (a : Nat) {n : Nat} {bs cs : List Byte} (hb : bs.length = n)
    (hc : cs.length = n) : (m.put a (bs ++ cs)).slice a n = bs ∧ (m.put a (bs ++ cs)).slice (a + n) n = cs := by
  have hboth := m.slice_put_same a (n + n) (bs ++ cs) (by rw [List.length_append, hb, hc])
  rw [Mem.slice_add] at hboth
  exact List.append_inj hboth (by rw [Mem.slice_length, hb])

/-- XORL and SWAP write the halves alone, so that FAPPLY's output and scratch buffers stand after a ROUND (R176). -/
theorem oneRound_keeps_applied {s t u : State} (hround : oneRound s = .ok t)
    (happly : applyFunction s.roundSlot s = .ok u) :
    SameOutside u.mem t.mem [(Map.left, s.hlen.toNat), (Map.right, s.hlen.toNat)] := by
  obtain ⟨-, u', v, hu, hxor, rfl⟩ := (oneRound_ok_iff s t).1 hround
  obtain rfl := Except.ok.inj (happly.symm.trans hu)
  obtain ⟨m, f, b, hregs⟩ := applyFunction_shape _ s u hu
  have hhlen : u.hlen = s.hlen := (congrArg State.hlen hregs :)
  obtain ⟨-, rfl⟩ := (xorLeft_ok_iff u v).1 hxor
  have hswap := swapHalves_sameOutside (u.writeBytes Map.left (Units.xorBytes u.leftHalf u.fOutput))
  rw [State.writeBytes_hlen, hhlen] at hswap
  refine ((SameOutside.refl _ _).put List.mem_cons_self le_rfl ?_).trans hswap
  rw [Units.xorBytes_length, State.leftHalf_length, hhlen]
  omega

/-- A string below the halves or behind them stands where the halves alone were written. -/
theorem SameOutside.slice_of_halves {m m' : Mem} {h a n : Nat}
    (hm : SameOutside m m' [(Map.left, h), (Map.right, h)]) (hh : h ≤ 2048) (ha : a + n ≤ Map.left ∨ Map.fout ≤ a) :
    m'.slice a n = m.slice a n := by
  refine hm.slice_eq ?_
  simp only [List.mem_cons, List.not_mem_nil, or_false, forall_eq_or_imp, forall_eq, Map.left, Map.right,
    Map.fout] at ha ⊢
  omega

/-! #### FAPPLY on legal operands -/

/-- FAPPLY on legal operands succeeds with the round function's value (R172). -/
theorem applyFunction_of_legal {s : State} (hs : s.inRange) {k : Nat} (hk : s.keyUsable k)
    (hhalf : 1 ≤ s.hlen.toNat) (hsecret : s.secretUsable) :
    ∃ t f, Units.roundFunction s.hash s.straps s.rightHalf k (s.key k) = .ok f ∧
      applyFunction k s = .ok t ∧ s.FunctionApplied k t f := by
  have hfunction := Units.roundFunction_of_legal s.hash ((secretLegal_iff _).2 hsecret) (half := s.rightHalf)
    (by rwa [State.rightHalf_length]) k (key := s.key k) (by rw [State.key_length, keyLenLegal_iff]; exact hk.2)
  obtain ⟨t, happly, ht⟩ := (applyFunction_agrees hs hk.1).exists_ok hfunction
  exact ⟨t, _, hfunction, happly, ht⟩

theorem State.FunctionApplied.slice_fout {s t : State} {k : Nat} {f : List Byte} (h : s.FunctionApplied k t f) :
    t.mem.slice Map.fout s.hlen.toNat = f := by
  rw [← h.fOutput, State.fOutput, (congrArg State.flen h.regs :)]
  rfl

/-- The padded block the scratch registers hold is the padder's (R122). -/
theorem State.Scratch.pad_eq {s : State} {k i : Nat} {m : Mem} (h : s.Scratch k i m) (hi : 64 * i < s.hlen.toNat) :
    Units.pad (Units.block s.rightHalf i) 64 s.straps.pad = .ok (m.slice Map.blk 64) := by
  have hblock := Units.block_length s.rightHalf i
  rw [State.rightHalf_length] at hblock
  rw [Units.pad_of_fits (by omega) (by omega), h.blk, Units.paddedBlock]

/-- The salt the scratch registers hold is that of the block they hold (R118). -/
theorem State.Scratch.deriveSalt_eq {s : State} {k i : Nat} {m : Mem} (h : s.Scratch k i m)
    (hsecret : s.secretUsable) :
    Units.deriveSalt s.hash s.straps (m.slice Map.blk 64) = .ok (m.slice Map.salt 16) := by
  rw [Units.deriveSalt_of_block _ _ (Mem.slice_length ..), if_pos ((secretLegal_iff _).2 hsecret), h.salt]

/-! #### The STRIPs -/

/-- The three STRIPs are one effect with the bits of the form (R92, R180). -/
theorem exec_stripForm {f : Instr × Bool × Bool} (hf : f ∈ stripForms) {s : State} (hready : s.err = false) :
    exec f.1 s = .next (stripOutput f.2.1 f.2.2 s) := by
  have hexec : exec f.1 s = runCommand s (fun s => .ok (stripOutput f.2.1 f.2.2 s)) := by
    simp only [stripForms, List.mem_cons, List.not_mem_nil, or_false] at hf
    obtain rfl | rfl | rfl := hf
    · rfl
    · rfl
    · rfl
  exact hexec.trans (runCommand_of_total _ hready)

/-- When the PaddingTracker strips (R141). -/
theorem State.strippedFlag_iff (s : State) (oob odd : Bool) :
    s.strippedFlag oob odd = true ↔ 1 ≤ s.outLen.toNat ∧
      ((oob = false ∧ s.mem.get (Map.out + (s.outLen.toNat - 1)) = s.straps.pad) ∨ (oob = true ∧ odd = true)) := by
  simp only [State.strippedFlag, Bool.and_eq_true, Bool.or_eq_true, Bool.not_eq_true', decide_eq_true_eq]
  rfl

/-! #### The obligations -/

/-- Settles O42: the halves as SPLIT reads them off the message buffer, or the length that is too short. -/
theorem splitLoadsHalves : Obligations.SplitLoadsHalves := by
  refine ⟨rfl, rfl, ?_⟩
  rintro s dir ⟨hs, -⟩ hready
  refine ⟨fun hshort => ?_, fun hmsg => ?_⟩
  · exact runCommand_of_error s _ _ hready (splitMessage_of_short dir hshort)
  · have ⟨hmsgMax, _⟩ := hs
    obtain ⟨t, hsplit, ht⟩ := splitMessage_of_two_le dir hs hmsg
    have hhlen : t.hlen.toNat = halfUp s.msgLen.toNat :=
      (congrArg (BitVec.toNat ∘ State.hlen) ht.regs :).trans (toNat_ofNat_word (by rw [halfUp]; omega))
    have hleft := ht.leftHalf
    have hright := ht.rightHalf
    rw [State.leftHalf, hhlen] at hleft
    rw [State.rightHalf, hhlen] at hright
    refine ⟨t.mem, (runCommand_of_ok s _ t hready hsplit).trans (congrArg _ ht.regs), hleft, fun heven => ?_,
      fun hodd => ?_, ht.frame⟩
    · rw [(isOdd_eq_false_iff _).2 heven] at hright
      exact hright.trans (List.append_nil _)
    · rw [(isOdd_iff _).2 hodd] at hright
      exact hright

/-- Settles O43: FAPPLY computes the round function, and the scratch registers are those of the last block. -/
theorem fapplyComputesRoundFunction : Obligations.FapplyComputesRoundFunction := by
  rintro s k ⟨hs, -⟩ hready hk hhalf hsecret
  obtain ⟨t, f, hfunction, happly, ht⟩ := applyFunction_of_legal hs hk hhalf hsecret
  have hlast : 64 * (blockCount s.hlen.toNat - 1) < s.hlen.toNat := by rw [blockCount]; omega
  refine ⟨t.mem, (runCommand_of_ok s _ t hready happly).trans (congrArg _ ht.regs), ?_, ht.scratch.pad_eq hlast,
    ht.scratch.deriveSalt_eq hsecret, ht.scratch.dig, ht.frame⟩
  rw [hfunction, ht.slice_fout]

/-- Settles O44: each error is the first test that fails. -/
theorem fapplyErrorsInOrder : Obligations.FapplyErrorsInOrder := by
  intro s k hready
  refine ⟨fun hslot => ?_, fun hslot hkey => ?_, fun hk hzero => ?_, fun hk hhalf hsecret => ?_⟩
  all_goals refine runCommand_of_error s _ _ hready ?_
  · exact applyFunction_of_checkKey (State.checkKey_of_noSlot hslot)
  · exact applyFunction_of_checkKey (State.checkKey_of_badKey hslot hkey)
  · exact applyFunction_of_emptyHalf hk hzero
  · exact applyFunction_of_badSecret hk hhalf hsecret

/-- Settles O45: XORL stores the combined string over `L`, or finds the lengths apart. -/
theorem xorlCombinesLeftWithFout : Obligations.XorlCombinesLeftWithFout := by
  refine ⟨rfl, fun s hready => ⟨fun hne => ?_, fun heq => ?_⟩⟩
  · exact runCommand_of_error s _ _ hready (xorLeft_of_lengthMismatch hne)
  · have hxor := (xorLeft_ok_iff s _).2 ⟨congrArg BitVec.toNat heq, rfl⟩
    have hlen : (Units.xorBytes s.leftHalf s.fOutput).length = s.hlen.toNat := by
      rw [Units.xorBytes_length, State.leftHalf_length, State.fOutput, State.bytes_length, heq, min_self]
    refine ⟨_, runCommand_of_ok s _ _ hready hxor, fun j hj => ?_, (s.mem.put_stores Map.left hlen).2⟩
    rw [State.fOutput, heq]
    exact s.mem.get_put_xorBytes Map.left Map.fout hj

/-- Settles O46: the halves as SWAP leaves them, and its frame. -/
theorem swapExchangesHalves : Obligations.SwapExchangesHalves := by
  refine ⟨rfl, ?_⟩
  rintro s ⟨⟨_, _, hhlen, _⟩, -⟩ hready
  exact ⟨_, runCommand_of_total swapHalves hready, swapHalves_leftHalf hhlen, swapHalves_rightHalf s,
    swapHalves_sameOutside s⟩

/-- Settles O47: ROUND is a round of the cipher, and outside its halves it leaves what FAPPLY left. -/
theorem roundIsOneFeistelRound : Obligations.RoundIsOneFeistelRound := by
  rintro s ⟨hs, -⟩ hready hrnd k h hmin hmax hhalf hsecret
  have ⟨_, _, hhlen, _⟩ := hs
  obtain ⟨u, f, hfunction, happly, hu⟩ :=
    applyFunction_of_legal hs (k := s.roundSlot) ⟨s.roundSlot_lt hrnd, hmin, hmax⟩ hhalf hsecret
  have hlen : s.leftHalf.length = f.length := by
    rw [← hu.slice_fout, Mem.slice_length, State.leftHalf_length]
  obtain ⟨t, hround, ht⟩ :=
    (oneRound_agrees hs hrnd).exists_ok ((Units.round_ok_iff ..).2 ⟨f, hfunction, hlen, rfl⟩)
  have hregs := ht.regs
  rw [ofNat_toNat_add_one] at hregs
  have hthlen : t.hlen = s.hlen := (congrArg State.hlen hregs :)
  have hleft := ht.leftHalf
  have hright := ht.rightHalf
  rw [State.leftHalf, hthlen] at hleft
  rw [State.rightHalf, hthlen] at hright
  have hkept := oneRound_keeps_applied hround happly
  exact ⟨t.mem, f, u, hfunction, runCommand_of_ok s _ u hready happly,
    (runCommand_of_ok s _ t hready hround).trans (congrArg _ hregs), hleft, hright,
    (hkept.slice_of_halves hhlen (.inr le_rfl)).trans hu.slice_fout,
    hkept.slice_of_halves hhlen (.inl (by decide)), hkept.slice_of_halves hhlen (.inl (by decide)),
    hkept.slice_of_halves hhlen (.inl (by decide)), ht.frame⟩

/-- Settles O48: the round counter first, then the errors of FAPPLY. -/
theorem roundErrorsInOrder : Obligations.RoundErrorsInOrder := by
  refine fun s hready => ⟨fun hover => ?_, fun hrnd => ?_⟩
  · exact runCommand_of_error s _ _ hready (oneRound_of_overrun hover)
  · have hslot := s.roundSlot_lt hrnd
    refine ⟨fun hkey => ?_, fun hmin hmax hzero => ?_, fun hmin hmax hhalf hsecret => ?_⟩
    all_goals refine runCommand_of_error s _ _ hready (oneRound_of_applyFunction hrnd ?_)
    · exact applyFunction_of_checkKey (State.checkKey_of_badKey hslot hkey)
    · exact applyFunction_of_emptyHalf ⟨hslot, hmin, hmax⟩ hzero
    · exact applyFunction_of_badSecret ⟨hslot, hmin, hmax⟩ hhalf hsecret

/-- Settles O49: JOIN stores one string, the right half before the left. -/
theorem joinPutsRightHalfFirst : Obligations.JoinPutsRightHalfFirst := by
  refine ⟨rfl, ?_⟩
  rintro s ⟨⟨_, _, hhlen, _⟩, -⟩ hready
  have hlen : (s.rightHalf ++ s.leftHalf).length = 2 * s.hlen.toNat := by
    rw [List.length_append, State.rightHalf_length, State.leftHalf_length, Nat.two_mul]
  obtain ⟨hright, hleft⟩ := s.mem.slices_put_append Map.out s.rightHalf_length s.leftHalf_length
  refine ⟨_, (runCommand_of_total joinHalves hready).trans ?_, ?_, hright, hleft, (s.mem.put_stores Map.out hlen).2⟩
  · rw [joinHalves, ofNat_two_mul_toNat]
    rfl
  · rw [← ofNat_two_mul_toNat, toNat_ofNat_word (by omega)]

/-- Settles O50: each STRIP strips exactly where the PaddingTracker's condition holds. -/
theorem stripShortensOutput : Obligations.StripShortensOutput := by
  refine ⟨rfl, rfl, rfl, fun s hready f hf => ?_⟩
  rw [exec_stripForm hf hready, ← s.strippedFlag_iff]
  obtain ⟨hflag, hstrip⟩ | ⟨hflag, hstrip⟩ := stripOutput_cases f.2.1 f.2.2 s
  · refine ⟨fun hcond => ?_, fun hcond => absurd hflag hcond⟩
    rw [hstrip, ofNat_toNat_sub_one ((s.strippedFlag_iff _ _).1 hflag).1]
    rfl
  · exact ⟨fun hcond => absurd (hflag.symm.trans hcond) Bool.false_ne_true, fun _ => congrArg _ hstrip⟩

/-- Settles O51: STRIP's effect computes the PaddingTracker's function. -/
theorem stripComputesPaddingTracker : Obligations.StripComputesPaddingTracker := fun s hready f hf =>
  ⟨_, exec_stripForm hf hready, stripOutput_computes f.2.1 f.2.2 s⟩

/-! ### Rounds spelled out

The obligation O57 (42_round_commands.md R177). `ROUNDK` carries out what ROUND does but for its counter, and a
sequence of gated commands fails where the effect it carries out does: the first command to fail sets `ERR`, and those
behind it are refused. -/

theorem xorLeft_plain : PlainEffect xorLeft where
  setCmd s t w h := by
    obtain ⟨hlen, rfl⟩ := (xorLeft_ok_iff s t).1 h
    exact (xorLeft_ok_iff _ _).2 ⟨hlen, rfl⟩
  err s t h := by
    obtain ⟨-, rfl⟩ := (xorLeft_ok_iff s t).1 h
    rfl

theorem swapHalves_plain : PlainEffect (fun s => .ok (swapHalves s)) := .ok (fun _ _ => rfl) (fun _ => rfl)

theorem oneRound_plain : PlainEffect oneRound where
  setCmd s t w h := by
    obtain ⟨hrnd, u, v, hu, hv, rfl⟩ := (oneRound_ok_iff s t).1 h
    exact (oneRound_ok_iff _ _).2
      ⟨hrnd, _, _, (applyFunction_plain _).setCmd s u w hu, xorLeft_plain.setCmd u v w hv, rfl⟩
  err s t h := by
    obtain ⟨m, f, b, rfl⟩ := oneRound_shape s t h
    rfl

/-- An effect that does not look at `CMD` fails whatever word stands there: with the old word back it would succeed
before. -/
theorem PlainEffect.fails_setCmd {body : State → Result State} (hplain : PlainEffect body) {s : State} {e : CmdError}
    (h : body s = .error e) (w : Word) : ∃ e', body (s.setCmd w) = .error e' := by
  cases hw : body (s.setCmd w) with
  | error e' => exact ⟨e', rfl⟩
  | ok t =>
    have hback : body s = .ok (t.setCmd s.cmd) := hplain.setCmd (s.setCmd w) t s.cmd hw
    rw [h] at hback
    cases hback

/-! #### Sequences that succeed and fail as an effect does -/

/-- The issue of a command whose effect fails answers a state with `ERR` set (R90, R270). -/
theorem issue_encode_fails {i : Instr} (hwf : i.wellFormed = true) {body : State → Result State}
    (hexec : ∀ s, exec i s = runCommand s body) (hplain : PlainEffect body) {s : State} (hready : s.err = false)
    {e : CmdError} (h : body s = .error e) : ∃ t, issue (encode i) s = .next t ∧ t.err = true := by
  obtain ⟨e', he'⟩ := hplain.fails_setCmd h (encode i)
  refine ⟨(s.setCmd (encode i)).fail e', ?_, rfl⟩
  rw [issue_of_decode _ _ _ (decodeOfEncode i hwf), hexec]
  exact runCommand_of_error _ _ _ hready he'

/-- A command that `ERR` gates and that has a word. -/
def GatedCommand (i : Instr) : Prop := i.wellFormed = true ∧ isSystem i = false

/-- While `ERR` = 1 gated commands do nothing but pass through `CMD` (R271). -/
theorem issueAll_refused {is : List Instr} (his : ∀ i ∈ is, GatedCommand i) {s : State} (herr : s.err = true) :
    issueAll is s = .next (s.setCmd (lastWord is s.cmd)) := by
  induction is generalizing s with
  | nil => rfl
  | cons i is ih =>
    obtain ⟨hwf, hgated⟩ := his i List.mem_cons_self
    obtain ⟨body, -, hexec⟩ := exec_gated hgated
    have hissue : issue (encode i) s = .next (s.setCmd (encode i)) := by
      rw [issue_of_decode _ _ _ (decodeOfEncode i hwf), hexec]
      exact runCommand_refused _ _ herr
    rw [issueAll, hissue]
    exact ih (fun j hj => his j (List.mem_cons_of_mem _ hj)) (s := s.setCmd (encode i)) herr

/-- The sequence spells out the effect (R98): where the effect succeeds, it carries it out, and where the effect fails,
it ends with `ERR` set. -/
structure SpellsOut (is : List Instr) (body : State → Result State) : Prop where
  carries : Carries is body
  fails : ∀ s e w, s.err = false → body s = .error e → ∃ t, issueAll is (s.setCmd w) = .next t ∧ t.err = true

theorem spellsOut_command {i : Instr} (hwf : i.wellFormed = true) {body : State → Result State}
    (hexec : ∀ s, exec i s = runCommand s body) (hplain : PlainEffect body) : SpellsOut [i] body where
  carries := carries_command hwf hexec hplain
  fails s e w hready h := by
    obtain ⟨e', he'⟩ := hplain.fails_setCmd h w
    obtain ⟨t, hissue, ht⟩ := issue_encode_fails hwf hexec hplain (s := s.setCmd w) hready he'
    refine ⟨t, ?_, ht⟩
    rw [issueAll, hissue]
    rfl

/-- Where the composed effect fails, the first part fails and the second is refused, or the first is carried out and
the second fails. -/
theorem SpellsOut.append {is js : List Instr} {f g : State → Result State} (h : SpellsOut is f) (hf : PlainEffect f)
    (h' : SpellsOut js g) (hjs : ∀ i ∈ js, GatedCommand i) : SpellsOut (is ++ js) (fun s => f s >>= g) where
  carries := h.carries.append hf h'.carries
  fails s e w hready hfg := by
    obtain hfail | ⟨u, hu, hfail⟩ := (bind_error_iff _ _ _).1 hfg
    · obtain ⟨t, ht, herr⟩ := h.fails s e w hready hfail
      exact ⟨_, (issueAll_append is js ht).trans (issueAll_refused hjs herr), herr⟩
    · obtain ⟨t, ht, herr⟩ := h'.fails u e (lastWord is w) ((hf.err s u hu).trans hready) hfail
      exact ⟨t, (issueAll_append is js (h.carries s u w hready hu)).trans ht, herr⟩

/-! #### The obligation -/

/-- What `ROUNDK k` carries out: FAPPLY, XORL and SWAP in turn (R98). -/
def keyedRound (k : Nat) (s : State) : Result State :=
  applyFunction k s >>= fun s => xorLeft s >>= fun s => .ok (swapHalves s)

/-- ROUND is the keyed round of its slot, and one more in `RND` (R176, R177). -/
theorem oneRound_eq_keyedRound {s : State} (hrnd : s.rnd.toNat < s.nkeys.toNat) :
    oneRound s = keyedRound s.roundSlot s >>= fun t => .ok (t.setRnd (BitVec.ofNat 16 (s.rnd.toNat + 1))) := by
  rw [oneRound, if_neg (not_le.2 hrnd), keyedRound]
  simp only [bind_assoc]
  rfl

/-- The keyed round leaves the counter alone. -/
theorem keyedRound_rnd {k : Nat} {s t : State} (h : keyedRound k s = .ok t) : t.rnd = s.rnd := by
  obtain ⟨u, hu, h⟩ := (bind_ok_iff _ _ _).1 h
  obtain ⟨v, hv, h⟩ := (bind_ok_iff _ _ _).1 h
  obtain ⟨m, f, b, rfl⟩ := applyFunction_shape k s u hu
  obtain ⟨-, rfl⟩ := (xorLeft_ok_iff _ v).1 hv
  cases h
  rfl

theorem roundk_spellsOut {k : Nat} (hk : k < 256) : SpellsOut (Pseudo.roundk k) (keyedRound k) := by
  have hslot : argFits k = true := decide_eq_true hk
  have happly := spellsOut_command (i := .fapply k) hslot (fun _ => rfl) (applyFunction_plain k)
  have hxor := spellsOut_command (i := .xorl) rfl (fun _ => rfl) xorLeft_plain
  have hswap := spellsOut_command (i := .swap) rfl (fun _ => rfl) swapHalves_plain
  have hswapGated : ∀ i ∈ [Instr.swap], GatedCommand i := List.forall_mem_singleton.2 ⟨rfl, rfl⟩
  exact happly.append (applyFunction_plain k) (hxor.append xorLeft_plain hswap hswapGated)
    (List.forall_mem_cons.2 ⟨⟨rfl, rfl⟩, hswapGated⟩)

/-- Settles O57, by whether the keyed round of ROUND's slot succeeds. -/
theorem roundkEqualsRound : Obligations.RoundkEqualsRound := by
  rintro s ⟨⟨_, _, _, _, hnkeys, _⟩, -⟩ hready hrnd
  have hslot := s.roundSlot_lt hrnd
  have hroundk := roundk_spellsOut (k := s.roundSlot) (by omega)
  have hround := oneRound_eq_keyedRound hrnd
  cases hkeyed : keyedRound s.roundSlot s with
  | ok v =>
    rw [hkeyed] at hround
    refine ⟨_, _, hroundk.carries s v s.cmd hready hkeyed,
      issue_encode (i := .round) rfl (fun _ => rfl) oneRound_plain hready hround, rfl, fun _ => ?_⟩
    rw [← keyedRound_rnd hkeyed]
    rfl
  | error e =>
    rw [hkeyed] at hround
    obtain ⟨t, hseq, ht⟩ := hroundk.fails s e s.cmd hready hkeyed
    obtain ⟨u, hissue, hu⟩ := issue_encode_fails (i := .round) rfl (fun _ => rfl) oneRound_plain hready hround
    exact ⟨t, u, hseq, hissue, ht.trans hu.symm, fun hok => by rw [hu] at hok; cases hok⟩

end Sys2Proof.Machine

namespace Sys2Proof.Machine

/-! ### ENCODE and DECODE

The obligations O52 to O55 (43_macro_commands.md R200, R202). That a job fails where the cipher fails, and with what
error, is their agreement. What is left is that a ready job does not fail, what JOIN leaves of the halves, and what
STRIP makes of the registers. -/

/-- What agrees fails with the same error. -/
theorem Agrees.error_iff {α β : Type} {R : α → β → Prop} {x : Result α} {y : Result β} (h : Agrees R x y)
    (e : CmdError) : x = .error e ↔ y = .error e := by
  match x, y, h with
  | .ok _, .ok _, _ => exact iff_of_false nofun nofun
  | .error _, .error _, rfl => exact (Except.error.injEq ..).to_iff.trans (Except.error.injEq ..).to_iff.symm

/-- The three DECODEs are one effect with the bits of the form (R92, R202). -/
theorem exec_decodeForm {f : Instr × Bool × Bool} (hf : f ∈ decodeForms) (s : State) :
    exec f.1 s = runCommand s (decodeJob f.2.1 f.2.2) := by
  simp only [decodeForms, List.mem_cons, List.not_mem_nil, or_false] at hf
  obtain rfl | rfl | rfl := hf
  · rfl
  · rfl
  · rfl

/-- Settles O53: a job fails where the cipher does. -/
theorem encodeFailsAsTheCipher : Obligations.EncodeFailsAsTheCipher := by
  rintro s e ⟨hs, -⟩ hready hencode
  rw [Units.encode_eq_run, s.keyList_length] at hencode
  exact runCommand_of_error s _ e hready (((runJob_agrees false hs).error_iff e).2 hencode)

/-- Settles O55: DECODE fails where the inverse cipher does. -/
theorem decodeFailsAsTheInverse : Obligations.DecodeFailsAsTheInverse := by
  rintro s e ⟨hs, -⟩ hready f hf hdecode
  rw [exec_decodeForm hf]
  exact runCommand_of_error s _ e hready (((decodeJob_agrees _ _ hs).error_iff e).2 hdecode)

/-! #### A ready job -/

/-- The cipher's rounds on legal operands succeed, in whatever order they take the keys (R138, R139, R296). -/
theorem Units.run_of_legal (kh : Kh) {st : Straps} (hst : secretLegal st = true) {m : List Byte} (hm : 2 ≤ m.length)
    {keys : List (List Byte)} (hne : 1 ≤ keys.length) (hkeys : ∀ key ∈ keys, keyLenLegal key.length = true)
    {order : List Nat} (horder : ∀ k ∈ order, k < keys.length) :
    ∃ c, run kh st m keys order = .ok (c, isOdd m.length) := by
  have hhalf : 1 ≤ halfUp m.length := by rw [halfUp]; omega
  have hlegal : ∀ k ∈ order, keyLenLegal (keys.getD k []).length = true := fun k hk => by
    rw [List.getD_eq_getElem _ _ (horder k hk)]
    exact hkeys _ (List.getElem_mem _)
  obtain ⟨l, r, hrounds, -⟩ := rounds_of_legal kh hst hhalf hlegal
    (l := (evened st.pad m).take (halfUp m.length)) (r := (evened st.pad m).drop (halfUp m.length))
    (by rw [List.length_take, evened_length]; omega) (by rw [List.length_drop, evened_length]; omega)
  refine ⟨r ++ l, ?_⟩
  rw [run, if_neg (by omega), split_of_two_le hm]
  change (rounds _ _ _ _ _ _ >>= _) = _
  rw [hrounds]
  rfl

/-- A job of the engine that is ready completes, in either direction (R296). -/
theorem State.jobReady.runJob_ok {s : State} (hs : s.inRange) (hjob : s.jobReady) (dir : Bool) :
    ∃ t c, runJob dir s = .ok t ∧
      Units.run s.hash s.straps s.message s.keyList
        (if dir then Units.backward s.nkeys.toNat else Units.forward s.nkeys.toNat) = .ok (c, isOdd s.msgLen.toNat) ∧
      s.JobDone dir t (c, isOdd s.msgLen.toNat) := by
  obtain ⟨-, hnkeys, hkeys, hmsg, hsecret⟩ := hjob
  have hlegal : ∀ key ∈ s.keyList, Units.keyLenLegal key.length = true := fun key hkey => by
    obtain ⟨k, hk, rfl⟩ := List.mem_map.1 hkey
    rw [s.key_length]
    exact (keyLenLegal_iff _).2 (hkeys k (List.mem_range.1 hk))
  have horder : ∀ k ∈ if dir then Units.backward s.nkeys.toNat else Units.forward s.nkeys.toNat,
      k < s.keyList.length := by
    cases dir <;> simp [Units.forward, Units.backward, s.keyList_length]
  obtain ⟨c, hrun⟩ := Units.run_of_legal s.hash ((secretLegal_iff _).2 hsecret) (m := s.message)
    (by rwa [s.message_length]) (by rwa [s.keyList_length]) hlegal horder
  rw [s.message_length] at hrun
  obtain ⟨t, ht, hdone⟩ := (runJob_agrees dir hs).exists_ok hrun
  exact ⟨t, c, ht, hrun, hdone⟩

/-- JOIN leaves the halves, so that the output can be read off them (R178). -/
theorem joinHalves_output_eq_halves {s : State} (hs : s.hlen.toNat ≤ 2048) :
    (joinHalves s).output = (joinHalves s).rightHalf ++ (joinHalves s).leftHalf := by
  have hlen : (s.rightHalf ++ s.leftHalf).length ≤ 4096 := by
    rw [List.length_append, State.rightHalf_length, State.leftHalf_length]
    omega
  have hright : (joinHalves s).rightHalf = s.rightHalf :=
    Mem.slice_put_disjoint _ _ _ _ _ (.inr (by simp only [Map.out, Map.right]; omega))
  have hleft : (joinHalves s).leftHalf = s.leftHalf :=
    Mem.slice_put_disjoint _ _ _ _ _ (.inr (by simp only [Map.out, Map.left]; omega))
  rw [joinHalves_output hs, hright, hleft]

theorem runJob_output_eq_halves {dir : Bool} {s t : State} (hs : s.inRange) (h : runJob dir s = .ok t) :
    t.output = t.rightHalf ++ t.leftHalf := by
  obtain ⟨-, u, v, hu, hv, rfl⟩ := (runJob_ok_iff dir s t).1 h
  have hsplit := (splitMessage_sound dir).worked s u hs hu
  have ⟨_, _, hhlen, _⟩ := ((manyRounds_sound _).worked u v hsplit.inRange hv).inRange
  exact joinHalves_output_eq_halves hhlen

section JobDone

variable {s t : State} {dir : Bool} {c : List Byte × Bool} (h : s.JobDone dir t c)
include h

theorem State.JobDone.hlen_toNat (hs : s.inRange) : t.hlen.toNat = halfUp s.msgLen.toNat := by
  have ⟨hmsg, _⟩ := hs
  exact (congrArg (BitVec.toNat ∘ State.hlen) h.regs :).trans (toNat_ofNat_word (by rw [halfUp]; omega))

theorem State.JobDone.outLen_toNat (hs : s.inRange) : t.outLen.toNat = 2 * halfUp s.msgLen.toNat := by
  have ⟨hmsg, _⟩ := hs
  exact (congrArg (BitVec.toNat ∘ State.outLen) h.regs :).trans (toNat_ofNat_word (by rw [halfUp]; omega))

/-- What a job writes: the working buffers and `OUT` (R56, R200). -/
theorem State.JobDone.sameOutside : SameOutside s.mem t.mem
    (roundBuffers (halfUp s.msgLen.toNat) ++ [(Map.out, 2 * halfUp s.msgLen.toNat)]) :=
  h.frame.mono (List.cons_subset.2 ⟨by simp, List.subset_append_left _ _⟩)

end JobDone

/-- Settles O52: a ready job completes, and its output is the cipher text and can be read off the halves. -/
theorem encodeComputesTheCipher : Obligations.EncodeComputesTheCipher := by
  rintro s ⟨hs, -⟩ hjob h odd
  obtain ⟨t, c, hok, hrun, ht⟩ := hjob.runJob_ok hs false
  have houtLen := ht.outLen_toNat hs
  have hhlen := ht.hlen_toNat hs
  have houtput : t.output = t.mem.slice Map.out (2 * h) := by rw [State.output, houtLen]; rfl
  have hhalves := runJob_output_eq_halves hs hok
  rw [houtput, State.rightHalf, State.leftHalf, hhlen] at hhalves
  refine ⟨t.mem, (runCommand_of_ok s _ t hjob.1 hok).trans (congrArg _ ht.regs), ?_, hhalves, ht.sameOutside⟩
  rw [Units.encode_eq_run, s.keyList_length, ← houtput, ht.output]
  exact hrun

/-- STRIP sets `OUT_LEN` and `STRIPPED` alone (R180). -/
theorem stripOutput_regs (oob odd : Bool) (s : State) :
    stripOutput oob odd s =
      { s with outLen := (stripOutput oob odd s).outLen, stripped := (stripOutput oob odd s).stripped } := by
  obtain ⟨-, hstrip⟩ | ⟨-, hstrip⟩ := stripOutput_cases oob odd s
  · rw [hstrip]
    rfl
  · rw [hstrip]
    rfl

/-- One byte less where STRIP strips (R180). -/
theorem stripOutput_outLen_toNat (oob odd : Bool) (s : State) :
    (stripOutput oob odd s).outLen.toNat = s.outLen.toNat - (stripOutput oob odd s).stripped.toNat := by
  obtain ⟨-, hstrip⟩ | ⟨-, hstrip⟩ := stripOutput_cases oob odd s
  · rw [hstrip]
    exact Nat.mod_eq_of_lt (by omega)
  · rw [hstrip]
    rfl

/-- Settles O54: the job computes the inverse cipher up to its strip, and STRIP computes the strip. -/
theorem decodeComputesTheInverse : Obligations.DecodeComputesTheInverse := by
  rintro s ⟨hs, -⟩ hjob f hf h
  obtain ⟨t, c, hok, hrun, ht⟩ := hjob.runJob_ok hs true
  have houtLen := ht.outLen_toNat hs
  have hstraps : t.straps = s.straps := (congrArg State.straps ht.regs :)
  have hstrip := stripOutput_computes f.2.1 f.2.2 t
  rw [hstraps, ht.output] at hstrip
  have hregs := stripOutput_regs f.2.1 f.2.2 t
  have hvlen := stripOutput_outLen_toNat f.2.1 f.2.2 t
  generalize hv : stripOutput f.2.1 f.2.2 t = v at hstrip hregs hvlen
  rw [houtLen] at hvlen
  refine ⟨t.mem, v.output, v.stripped, ?decode, ?exec, v.output_length.trans hvlen, ?output, ht.sameOutside⟩
  case decode =>
    rw [Units.decode_eq_run, s.keyList_length]
    exact (congrArg (· >>= _) hrun).trans (congrArg Except.ok hstrip)
  case exec =>
    have hstate := hregs.trans
      (congrArg (fun u : State => { u with outLen := v.outLen, stripped := v.stripped }) ht.regs)
    have hdecode := (decodeJob_ok_iff f.2.1 f.2.2 s v).2 ⟨t, hok, hv.symm⟩
    rw [exec_decodeForm hf, v.output_length, BitVec.ofNat_toNat, BitVec.setWidth_eq]
    exact (runCommand_of_ok s _ v hjob.1 hdecode).trans (congrArg _ hstate)
  case output =>
    have hmem : v.mem = t.mem := (congrArg State.mem hregs :)
    rw [v.output_length, ← hmem]
    rfl

end Sys2Proof.Machine

namespace Sys2Proof.Machine

/-! ### Jobs spelled out

The obligations O58 and O59 (43_macro_commands.md R201, R203). A job is SPLIT, its ROUNDs and JOIN, and `ENC` and `DEC`
issue these one by one. Where each succeeds the sequence carries the job out; where one fails it records the very error
of the job, since an error of an effect is that of the cipher, which knows no `CMD`. -/

/-- The error of the effect does not depend on the command word. -/
def FailsAlike (body : State → Result State) : Prop :=
  ∀ s e w, State.inRange s → body s = .error e → body (s.setCmd w) = .error e

theorem failsAlike_ok (f : State → State) : FailsAlike (fun s => .ok (f s)) := fun _ _ _ _ h => nomatch h

/-- What agrees with a value that does not depend on the command word fails alike. -/
theorem FailsAlike.of_agrees {β : Type} {body : State → Result State} {R : State → State → β → Prop}
    {unit : State → Result β} (h : ∀ s, State.inRange s → Agrees (R s) (body s) (unit s))
    (hunit : ∀ s w, unit (State.setCmd s w) = unit s) : FailsAlike body := by
  intro s e w hs he
  rw [(h (s.setCmd w) hs).error_iff, hunit, ← (h s hs).error_iff]
  exact he

theorem splitMessage_failsAlike (dir : Bool) : FailsAlike (splitMessage dir) :=
  .of_agrees (fun _ hs => splitMessage_agrees dir hs) fun _ _ => rfl

theorem oneRound_failsAlike : FailsAlike oneRound := by
  intro s e w hs he
  by_cases hrnd : s.rnd.toNat < s.nkeys.toNat
  · have hround := ((oneRound_agrees hs hrnd).error_iff e).1 he
    exact ((oneRound_agrees (s := s.setCmd w) hs hrnd).error_iff e).2 hround
  · rw [oneRound_of_overrun (not_lt.1 hrnd)] at he
    rw [← he]
    exact oneRound_of_overrun (s := s.setCmd w) (not_lt.1 hrnd)

theorem runJob_failsAlike (dir : Bool) : FailsAlike (runJob dir) :=
  .of_agrees (fun _ hs => runJob_agrees dir hs) fun _ _ => rfl

theorem decodeJob_failsAlike (oob odd : Bool) : FailsAlike (decodeJob oob odd) :=
  .of_agrees (R := fun _ t d => (t.output, t.stripped) = d) (fun _ hs => decodeJob_agrees oob odd hs) fun _ _ => rfl

/-! #### Effects that know nothing of `CMD` and `ERR` -/

theorem splitMessage_plain (dir : Bool) : PlainEffect (splitMessage dir) where
  setCmd s t w h := by
    obtain ⟨hmsg, rfl⟩ := (splitMessage_ok_iff dir s t).1 h
    exact (splitMessage_ok_iff dir _ _).2 ⟨hmsg, rfl⟩
  err s t h := by
    obtain ⟨-, rfl⟩ := (splitMessage_ok_iff dir s t).1 h
    rfl

theorem manyRounds_plain : ∀ n, PlainEffect (manyRounds n)
  | 0 => .ok (fun _ _ => rfl) (fun _ => rfl)
  | n + 1 => oneRound_plain.bind (manyRounds_plain n)

theorem joinHalves_plain : PlainEffect (fun s => .ok (joinHalves s)) := .ok (fun _ _ => rfl) (fun _ => rfl)

theorem stripOutput_plain (oob odd : Bool) : PlainEffect (fun s => .ok (stripOutput oob odd s)) := by
  refine .ok (fun s w => ?_) (fun s => ?_)
  · rw [stripOutput, stripOutput, apply_ite (State.setCmd · w)]
    rfl
  · exact (congrArg State.err (stripOutput_regs oob odd s) :)

theorem runJob_plain (dir : Bool) : PlainEffect (runJob dir) where
  setCmd s t w h := by
    obtain ⟨hnkeys, u, v, hu, hv, rfl⟩ := (runJob_ok_iff dir s t).1 h
    exact (runJob_ok_iff dir _ _).2
      ⟨hnkeys, _, _, (splitMessage_plain dir).setCmd s u w hu, (manyRounds_plain _).setCmd u v w hv, rfl⟩
  err s t h := by
    obtain ⟨-, u, v, hu, hv, rfl⟩ := (runJob_ok_iff dir s t).1 h
    exact ((manyRounds_plain _).err u v hv).trans ((splitMessage_plain dir).err s u hu)

theorem decodeJob_plain (oob odd : Bool) : PlainEffect (decodeJob oob odd) :=
  (runJob_plain true).bind (stripOutput_plain oob odd)

/-! #### Sequences that record the error of an effect -/

/-- The sequence stands for the effect (R98): where the effect succeeds, it carries it out, and where the effect fails,
it records the effect's error. -/
structure StandsFor (is : List Instr) (body : State → Result State) : Prop where
  carries : Carries is body
  records : ∀ s e w, s.inRange → s.err = false → body s = .error e →
    ∃ t, issueAll is (s.setCmd w) = .next (State.fail t e)
  plain : PlainEffect body
  sound : SoundEffect body
  gated : ∀ i ∈ is, GatedCommand i

/-- The issue of a command whose effect fails records its error (R90, R270). -/
theorem issue_encode_error {i : Instr} (hwf : i.wellFormed = true) {body : State → Result State}
    (hexec : ∀ s, exec i s = runCommand s body) (halike : FailsAlike body) {s : State} (hs : s.inRange)
    (hready : s.err = false) {e : CmdError} (h : body s = .error e) :
    issue (encode i) s = .next ((s.setCmd (encode i)).fail e) := by
  rw [issue_of_decode _ _ _ (decodeOfEncode i hwf), hexec]
  exact runCommand_of_error _ _ _ hready (halike s e _ hs h)

theorem standsFor_command {i : Instr} (hi : GatedCommand i) {body : State → Result State}
    (hexec : ∀ s, exec i s = runCommand s body) (hplain : PlainEffect body) (hsound : SoundEffect body)
    (halike : FailsAlike body) : StandsFor [i] body where
  carries := carries_command hi.1 hexec hplain
  records s e w hs hready h := by
    refine ⟨s.setCmd (encode i), ?_⟩
    rw [issueAll, issue_encode_error hi.1 hexec halike (s := s.setCmd w) hs hready (halike s e w hs h)]
    rfl
  plain := hplain
  sound := hsound
  gated := List.forall_mem_singleton.2 hi

/-- Behind a command that failed the others are refused, so its error stays on record (R271). -/
theorem StandsFor.append {is js : List Instr} {f g : State → Result State} (h : StandsFor is f)
    (h' : StandsFor js g) : StandsFor (is ++ js) (fun s => f s >>= g) where
  carries := h.carries.append h.plain h'.carries
  records s e w hs hready hfg := by
    obtain hfail | ⟨u, hu, hfail⟩ := (bind_error_iff _ _ _).1 hfg
    · obtain ⟨t, ht⟩ := h.records s e w hs hready hfail
      exact ⟨t.setCmd (lastWord js t.cmd), (issueAll_append is js ht).trans (issueAll_refused h'.gated rfl)⟩
    · obtain ⟨t, ht⟩ := h'.records u e (lastWord is w) (h.sound.worked s u hs hu).inRange
        ((h.plain.err s u hu).trans hready) hfail
      exact ⟨t, (issueAll_append is js (h.carries s u w hready hu)).trans ht⟩
  plain := h.plain.bind h'.plain
  sound := h.sound.bind h'.sound
  gated := List.forall_mem_append.2 ⟨h.gated, h'.gated⟩

theorem lastWord_append_singleton (is : List Instr) (i : Instr) (w : Word) :
    lastWord (is ++ [i]) w = encode i := by
  rw [lastWord, List.foldl_append]
  rfl

/-- A sequence against the command with the same effect: the same success, the same error record, and on success the
same state but for `CMD` (R201, R203). -/
theorem StandsFor.equals_command {is : List Instr} {f : State → Result State} (h : StandsFor is f) {i : Instr}
    (hwf : i.wellFormed = true) {body : State → Result State} (hexec : ∀ s, exec i s = runCommand s body)
    (hplain : PlainEffect body) (halike : FailsAlike body) {s : State} (hs : s.inRange) (hready : s.err = false)
    (hbody : body s = f s) :
    ∃ t u, issueAll is s = .next t ∧ issue (encode i) s = .next u ∧
      t.err = u.err ∧ t.errcode = u.errcode ∧ t.errinfo = u.errinfo ∧
      (u.err = false → t = { u with cmd := lastWord is s.cmd }) := by
  cases hf : f s with
  | ok v =>
    exact ⟨_, _, h.carries s v s.cmd hready hf, issue_encode hwf hexec hplain hready (hbody.trans hf), rfl, rfl, rfl,
      fun _ => rfl⟩
  | error e =>
    obtain ⟨t, ht⟩ := h.records s e s.cmd hs hready hf
    exact ⟨_, _, ht, issue_encode_error hwf hexec halike hs hready (hbody.trans hf), rfl, rfl, rfl, nofun⟩

/-! #### The steps of a job -/

/-- SPLIT, `n` ROUNDs and JOIN (R201, R203). -/
def jobCommands (dir : Bool) (n : Nat) : List Instr := [.split dir] ++ (List.replicate n .round ++ [.join])

/-- What they carry out. -/
def jobSteps (dir : Bool) (n : Nat) (s : State) : Result State :=
  splitMessage dir s >>= fun s => manyRounds n s >>= fun s => .ok (joinHalves s)

theorem enc_eq_jobCommands (n : Nat) : Pseudo.enc n = jobCommands false n := rfl

theorem dec_eq_jobCommands (n : Nat) (oob odd : Bool) :
    Pseudo.dec n oob odd = jobCommands true n ++ [Pseudo.stripOf oob odd] := by
  simp [Pseudo.dec, jobCommands]

theorem jobCommands_lastWord (dir : Bool) (n : Nat) (w : Word) : lastWord (jobCommands dir n) w = 0x1500 := by
  rw [jobCommands, ← List.append_assoc, lastWord_append_singleton]
  rfl

theorem runJob_eq_jobSteps {s : State} (hnkeys : 1 ≤ s.nkeys.toNat) (dir : Bool) :
    runJob dir s = jobSteps dir s.nkeys.toNat s := if_neg (Nat.one_le_iff_ne_zero.1 hnkeys)

theorem round_standsFor : StandsFor [.round] oneRound :=
  standsFor_command ⟨rfl, rfl⟩ (fun _ => rfl) oneRound_plain oneRound_sound oneRound_failsAlike

theorem rounds_standsFor : ∀ n, StandsFor (List.replicate n .round) (manyRounds n)
  | 0 => { carries := Carries.nil
           records := fun _ _ _ _ _ h => nomatch h
           plain := manyRounds_plain 0
           sound := manyRounds_sound 0
           gated := List.forall_mem_nil _ }
  | n + 1 => round_standsFor.append (rounds_standsFor n)

theorem jobCommands_standsFor (dir : Bool) (n : Nat) : StandsFor (jobCommands dir n) (jobSteps dir n) := by
  have hsplit := standsFor_command (i := .split dir) ⟨rfl, rfl⟩ (fun _ => rfl) (splitMessage_plain dir)
    (splitMessage_sound dir) (splitMessage_failsAlike dir)
  have hjoin := standsFor_command (i := .join) ⟨rfl, rfl⟩ (fun _ => rfl) joinHalves_plain
    (.ok joinHalves_worked) (failsAlike_ok joinHalves)
  exact hsplit.append ((rounds_standsFor n).append hjoin)

/-! #### The obligations -/

/-- With no keys SPLIT and JOIN alone put out the right half before the left (R201). -/
theorem jobSteps_zero {s : State} (hs : s.inRange) (hmsg : 2 ≤ s.msgLen.toNat) (dir : Bool) :
    ∃ t h, jobSteps dir 0 s = .ok t ∧ Units.split s.straps.pad s.message = .ok h ∧ t.output = h.right ++ h.left := by
  have hsplit := Units.split_of_two_le (m := s.message) (by rwa [s.message_length]) s.straps.pad
  obtain ⟨t, hok, ht⟩ := (splitMessage_agrees dir hs).exists_ok hsplit
  have ⟨_, _, hhlen, _⟩ := ((splitMessage_sound dir).worked s t hs hok).inRange
  refine ⟨joinHalves t, _, (bind_ok_iff _ _ _).2 ⟨t, hok, rfl⟩, hsplit, ?_⟩
  rw [joinHalves_output hhlen, ht.leftHalf, ht.rightHalf]

/-- Settles O58: `ENC` stands for the steps of the job that ENCODE runs. -/
theorem encEqualsEncode : Obligations.EncEqualsEncode := by
  rintro s ⟨hs, -⟩ hready
  refine ⟨fun hnkeys => ?keys, fun hnone hmsg => ⟨?fails, ?swapped⟩⟩
  case keys =>
    have hequal := (jobCommands_standsFor false s.nkeys.toNat).equals_command (i := .encode) rfl (fun _ => rfl)
      (runJob_plain false) (runJob_failsAlike false) hs hready (runJob_eq_jobSteps hnkeys false)
    rwa [jobCommands_lastWord, ← enc_eq_jobCommands] at hequal
  case fails => exact runCommand_of_error s _ _ hready (if_pos hnone)
  case swapped =>
    obtain ⟨t, h, hsteps, hsplit, houtput⟩ := jobSteps_zero hs hmsg false
    have hstands := jobCommands_standsFor false 0
    exact ⟨_, h.left, h.right, h.padded, hstands.carries s t s.cmd hready hsteps,
      (hstands.plain.err s t hsteps).trans hready, hsplit, houtput⟩

/-- With `OOB` = 0 the bit `ODD` counts for nothing (R92). -/
theorem exec_decodeOf (oob odd : Bool) (s : State) :
    exec (Pseudo.decodeOf oob odd) s = runCommand s (decodeJob oob (oob && odd)) := by
  cases oob with
  | false => rfl
  | true => exact exec_decodeOf_outOfBand odd s

theorem exec_stripOf (oob odd : Bool) (s : State) :
    exec (Pseudo.stripOf oob odd) s = runCommand s (fun s => .ok (stripOutput oob (oob && odd) s)) := by
  cases oob with
  | false => rfl
  | true => cases odd <;> rfl

/-- STRIP and DECODE have a word and heed `ERR`, whatever their bits. -/
theorem stripOf_gated (oob odd : Bool) : GatedCommand (Pseudo.stripOf oob odd) := by
  cases oob <;> cases odd <;> exact ⟨rfl, rfl⟩

theorem decodeOf_wellFormed (oob odd : Bool) : (Pseudo.decodeOf oob odd).wellFormed = true := by
  cases oob <;> cases odd <;> rfl

/-- Settles O59: `DEC` stands for the steps of the job that DECODE runs, and its STRIP. -/
theorem decEqualsDecode : Obligations.DecEqualsDecode := by
  rintro s oob odd ⟨hs, -⟩ hready hnkeys
  have hstrip := standsFor_command (stripOf_gated oob odd) (exec_stripOf oob odd) (stripOutput_plain oob (oob && odd))
    (.ok (stripOutput_worked oob (oob && odd))) (failsAlike_ok _)
  have hbody : decodeJob oob (oob && odd) s =
      jobSteps true s.nkeys.toNat s >>= fun s => .ok (stripOutput oob (oob && odd) s) := by
    rw [decodeJob, runJob_eq_jobSteps hnkeys]
    rfl
  have hequal := ((jobCommands_standsFor true s.nkeys.toNat).append hstrip).equals_command
    (decodeOf_wellFormed oob odd) (exec_decodeOf oob odd) (decodeJob_plain oob (oob && odd))
    (decodeJob_failsAlike oob (oob && odd)) hs hready hbody
  rwa [lastWord_append_singleton, ← dec_eq_jobCommands] at hequal

end Sys2Proof.Machine

namespace Sys2Proof.Machine

/-! ### System commands

The obligations O34 to O36 (44_system_commands.md R220 to R222). NOP and CLRERR touch no storage, so each is one
equation of states. SRESET stores zeros, and what it leaves at an address is settled by whether a reset clears that
address (R51). -/

/-- With no error on record there is nothing to acknowledge (R221). -/
theorem State.ackError_of_no_error {s : State} (hrecord : s.errorRecord) (herr : s.err = false) : s.ackError = s := by
  obtain ⟨hcode, hinfo⟩ := hrecord.1 herr
  cases s
  subst herr hcode hinfo
  rfl

/-- SRESET clears `KLEN`, `SALTREG` and `DIG` whole (R222). -/
theorem State.softReset_get_of_isZeroed (s : State) {a : Nat} (ha : isZeroed a = true) :
    s.softReset.mem.get a = 0 := by
  have hbuffer : (Map.salt ≤ a ∧ a < Map.salt + 16) ∨ (Map.dig ≤ a ∧ a < Map.dig + 64) ∨
      (Map.klen ≤ a ∧ a < Map.klen + 32) := by
    rwa [isZeroed, Bool.or_eq_true, Bool.or_eq_true, inRegion_iff, inRegion_iff, inRegion_iff, or_assoc] at ha
  rw [State.softReset_mem]
  obtain ⟨hbase, hend⟩ | ⟨hbase, hend⟩ | ⟨hbase, hend⟩ := hbuffer
  case inl =>
    rw [Mem.get_put_out _ _ _ _ (.inl (hend.trans (by decide)))]
    exact Mem.get_put_replicate _ _ hbase hend
  case inr.inl => exact Mem.get_put_replicate _ _ hbase hend
  case inr.inr =>
    rw [Mem.get_put_out _ _ _ _ (.inr hbase), Mem.get_put_out _ _ _ _ (.inr (hbase.trans' (by decide)))]
    exact Mem.get_put_replicate _ _ hbase hend

/-- A string inside the cleared buffers reads as zeros after SRESET. -/
theorem State.softReset_slice_of_isZeroed (s : State) {a n : Nat} (h : ∀ j < n, isZeroed (a + j) = true) :
    s.softReset.mem.slice a n = List.replicate n 0 := by
  apply List.ext_getElem
  · simp only [Mem.slice_length, List.length_replicate]
  · intro j hj _
    rw [Mem.slice_length] at hj
    rw [Mem.getElem_slice, List.getElem_replicate, s.softReset_get_of_isZeroed (h j hj)]

/-- The frame of SRESET (R222). -/
theorem State.softReset_sameOutside (s : State) :
    SameOutside s.mem s.softReset.mem [(Map.klen, 32), (Map.salt, 16), (Map.dig, 64)] := by
  intro a ha
  simp only [List.forall_mem_cons, Map.klen, Map.salt, Map.dig] at ha
  obtain ⟨hklen, hsalt, hdig, -⟩ := ha
  refine s.softReset_get_of_not_isZeroed ?_
  rw [isZeroed_iff]
  omega

/-- Settles O36: the registers by evaluation, each byte by whether SRESET clears its address. -/
theorem sresetClearsAllButTheBuffers : Obligations.SresetClearsAllButTheBuffers := by
  refine ⟨rfl, fun s => ⟨s.softReset.mem, rfl, fun k hk => ?klen, ?saltReg, ?digest, s.softReset_sameOutside⟩⟩
  case klen => exact s.softReset_get_of_isZeroed ((isZeroed_iff _).2 (by simp only [Map.klen]; omega))
  case saltReg =>
    exact s.softReset_slice_of_isZeroed fun j hj => (isZeroed_iff _).2 (by simp only [Map.salt]; omega)
  case digest =>
    exact s.softReset_slice_of_isZeroed fun j hj => (isZeroed_iff _).2 (by simp only [Map.dig]; omega)

/-- Settles O34: the word 0x0000 decodes to NOP, which leaves the state as `CMD`'s write left it. -/
theorem nopStoresOnlyItsWord : Obligations.NopStoresOnlyItsWord :=
  ⟨rfl, fun s => ⟨rfl, issue_of_decode 0x0000 s .nop rfl⟩⟩

/-- Settles O35: CLRERR is the acknowledgement of the record. -/
theorem clrerrAcknowledges : Obligations.ClrerrAcknowledges :=
  ⟨rfl, fun _ => ⟨rfl, fun hrecord herr => congrArg Host.Outcome.next (State.ackError_of_no_error hrecord herr)⟩⟩

end Sys2Proof.Machine

namespace Sys2Proof.Machine

/-! ### Command errors

The obligations O6, O12 to O15 (60_exceptions.md R261, R270 to R273, R285). What issuing a word makes of the error
record is said twice: with `ERR` = 0, where a set `ERR` after it means that the word did nothing but fail, and with
`ERR` = 1, where a word is refused unless it is one of the three that run whatever `ERR` is. -/

/-! #### Failing -/

/-- A gated command is one effect behind the gate: it raises only the errors of R261, and where it succeeds it leaves
`ERR`, in or out of the ranges of R20 (R90). -/
theorem exec_gated_plain {i : Instr} (hi : isSystem i = false) :
    ∃ body, PlainEffect body ∧ SoundEffect body ∧ ∀ s, exec i s = runCommand s body := by
  cases i with
  | nop | clrerr | sreset => cases hi
  | split dir => exact ⟨_, splitMessage_plain dir, splitMessage_sound dir, fun _ => rfl⟩
  | fapply k => exact ⟨_, applyFunction_plain k, applyFunction_sound k, fun _ => rfl⟩
  | xorl => exact ⟨_, xorLeft_plain, xorLeft_sound, fun _ => rfl⟩
  | swap => exact ⟨_, swapHalves_plain, .ok swapHalves_worked, fun _ => rfl⟩
  | round => exact ⟨_, oneRound_plain, oneRound_sound, fun _ => rfl⟩
  | join => exact ⟨_, joinHalves_plain, .ok joinHalves_worked, fun _ => rfl⟩
  | stripH => exact ⟨_, stripOutput_plain false false, .ok (stripOutput_worked false false), fun _ => rfl⟩
  | stripE => exact ⟨_, stripOutput_plain true false, .ok (stripOutput_worked true false), fun _ => rfl⟩
  | stripO => exact ⟨_, stripOutput_plain true true, .ok (stripOutput_worked true true), fun _ => rfl⟩
  | blkload b => exact ⟨_, loadBlock_plain b, loadBlock_sound b, fun _ => rfl⟩
  | blkpad => exact ⟨_, padBlock_plain, padBlock_sound, fun _ => rfl⟩
  | salt => exact ⟨_, saltBlock_plain, saltBlock_sound, fun _ => rfl⟩
  | hash k => exact ⟨_, hashBlock_plain k, hashBlock_sound k, fun _ => rfl⟩
  | emit b => exact ⟨_, emitBlock_plain b, emitBlock_sound b, fun _ => rfl⟩
  | encode => exact ⟨_, runJob_plain false, runJob_sound false, fun _ => rfl⟩
  | decodeH => exact ⟨_, decodeJob_plain false false, decodeJob_sound false false, fun _ => rfl⟩
  | decodeE => exact ⟨_, decodeJob_plain true false, decodeJob_sound true false, fun _ => rfl⟩
  | decodeO => exact ⟨_, decodeJob_plain true true, decodeJob_sound true true, fun _ => rfl⟩

/-- An illegal word has no effect that could succeed (R95). -/
theorem illegalWord_plain (w : Word) : PlainEffect (fun _ => .error (.illegalCommand w)) where
  setCmd _ _ _ h := nomatch h
  err _ _ h := nomatch h

/-- `s` came to `t` by the entry of one error that R261 has a code for (R270). -/
def State.FailsTo (s t : State) : Prop := ∃ e : CmdError, e ≠ .notAString ∧ t = s.fail e

/-- Neither the refusal nor the success of a gated command sets `ERR`, so its failure did. -/
theorem runCommand_failsTo {body : State → Result State} (hplain : PlainEffect body) (hsound : SoundEffect body)
    {s t : State} (hready : s.err = false) (h : runCommand s body = .next t) (herr : t.err = true) : s.FailsTo t := by
  obtain ⟨hgate, -⟩ | ⟨-, hok⟩ | ⟨-, e, herror, rfl⟩ := (runCommand_next_iff s body t).1 h
  · rw [hready] at hgate
    cases hgate
  · rw [hplain.err s t hok, hready] at herr
    cases herr
  · exact ⟨e, hsound.error_ne s e herror, rfl⟩

/-- NOP, CLRERR and SRESET cannot fail (R220 to R222). -/
theorem exec_failsTo {i : Instr} {s t : State} (hready : s.err = false) (h : exec i s = .next t)
    (herr : t.err = true) : s.FailsTo t := by
  cases hi : isSystem i with
  | false =>
    obtain ⟨body, hplain, hsound, hexec⟩ := exec_gated_plain hi
    exact runCommand_failsTo hplain hsound hready (hexec s ▸ h) herr
  | true =>
    obtain rfl | rfl | rfl := eq_of_isSystem hi
    · cases h
      rw [hready] at herr
      cases herr
    · cases h
      cases herr
    · cases h
      cases herr

theorem issue_failsTo {w : Word} {s t : State} (hready : s.err = false) (h : issue w s = .next t)
    (herr : t.err = true) : (s.setCmd w).FailsTo t := by
  cases hd : decode w with
  | ok i => exact exec_failsTo hready (issue_of_decode w s i hd ▸ h) herr
  | error e =>
    rw [issue_of_illegal w s e hd] at h
    exact runCommand_failsTo (illegalWord_plain w) (illegalWord_sound w) hready h herr

/-- Settles O12: the step on a `CMD` write is the issue of the word, and that only failed. -/
theorem failingCommandOnlyRecordsItsError : Obligations.FailingCommandOnlyRecordsItsError := by
  intro s t w rest hp hready h herr
  rw [step_action s _ rest hp, perform_command] at h
  obtain ⟨e, he, rfl⟩ := issue_failsTo (s := (s.setPending rest).answer .ok) hready h herr
  exact ⟨e, he, rfl⟩

/-! #### Refusing -/

/-- NOP, CLRERR and SRESET have one word each (R93). -/
theorem word_of_isSystem {w : Word} {i : Instr} (hd : decode w = .ok i) (hi : isSystem i = true) :
    w = 0x0000 ∨ w = 0x0100 ∨ w = 0x0200 := by
  obtain ⟨-, rfl⟩ := decodedWordEncodesBack w i hd
  obtain rfl | rfl | rfl := eq_of_isSystem hi
  · exact .inl rfl
  · exact .inr (.inl rfl)
  · exact .inr (.inr rfl)

/-- Legal or not, a word that is none of the three only lands in `CMD` (R90 steps 3 and 4, R271). -/
theorem issue_refused {w : Word} {s : State} (herr : s.err = true) (hnop : w ≠ 0x0000) (hclrerr : w ≠ 0x0100)
    (hsreset : w ≠ 0x0200) : issue w s = .next (s.setCmd w) := by
  cases hd : decode w with
  | ok i =>
    have hi : isSystem i = false := by
      by_contra hsystem
      obtain h | h | h := word_of_isSystem hd (Bool.eq_true_of_not_eq_false hsystem)
      · exact hnop h
      · exact hclrerr h
      · exact hsreset h
    obtain ⟨body, -, hexec⟩ := exec_gated hi
    rw [issue_of_decode w s i hd, hexec]
    exact runCommand_refused (s.setCmd w) body herr
  | error e =>
    rw [issue_of_illegal w s e hd]
    exact runCommand_refused (s.setCmd w) _ herr

/-- Settles O14: the step on a `CMD` write is the issue of the word, and that is refused. -/
theorem commandsRefusedWhileErr : Obligations.CommandsRefusedWhileErr := by
  intro s w rest hp herr hnop hclrerr hsreset
  rw [step_action s _ rest hp, perform_command,
    issue_refused (s := (s.setPending rest).answer .ok) herr hnop hclrerr hsreset]
  rfl

/-! #### The error on record -/

/-- `ERR`, `ERRCODE` and `ERRINFO` stand as they did (R272). -/
structure State.RecordKept (s t : State) : Prop where
  err : t.err = s.err
  errcode : t.errcode = s.errcode
  errinfo : t.errinfo = s.errinfo

@[refl] theorem State.RecordKept.refl (s : State) : s.RecordKept s := ⟨rfl, rfl, rfl⟩

/-- With `ERR` = 1 a word leaves the record or is the word of CLRERR or of SRESET and clears it (R271 to R273). -/
theorem issue_recordKept_or_cleared {w : Word} {s t : State} (herr : s.err = true) (h : issue w s = .next t) :
    s.RecordKept t ∨ (t.err = false ∧ (w = 0x0100 ∨ w = 0x0200)) := by
  by_cases hnop : w = 0x0000
  · subst hnop
    cases h
    exact .inl ⟨rfl, rfl, rfl⟩
  by_cases hclrerr : w = 0x0100
  · subst hclrerr
    cases h
    exact .inr ⟨rfl, .inl rfl⟩
  by_cases hsreset : w = 0x0200
  · subst hsreset
    cases h
    exact .inr ⟨rfl, .inr rfl⟩
  · rw [issue_refused herr hnop hclrerr hsreset] at h
    cases h
    exact .inl ⟨rfl, rfl, rfl⟩

/-- The registers of the record are read-only on the bus (R69). -/
theorem State.ctrlWrite_recordKept {s t : State} {r : CtrlReg} {v : Word} (h : s.ctrlWrite r v = some t) :
    s.RecordKept t := by
  cases r with
  | msgLen | outLen | hlen | flen | nkeys | blkLen =>
    obtain ⟨-, rfl⟩ := (checked_some_iff v _ _ t).1 h
    exact ⟨rfl, rfl, rfl⟩
  | cmd | status | errcode | errinfo | rnd | cfgr => cases h

theorem State.busWrite8_recordKept {s t : State} {a : Word} {v : Byte} (h : s.busWrite8 a v = some t) :
    s.RecordKept t := by
  obtain ⟨-, rfl⟩ := (s.busWrite8_some_iff t a v).1 h
  exact ⟨rfl, rfl, rfl⟩

theorem State.busWrite16_recordKept {s t : State} {a v : Word} (h : s.busWrite16 a v = some t) : s.RecordKept t := by
  obtain ⟨-, ⟨-, r, -, hreg⟩ | ⟨-, -, rfl⟩⟩ := (s.busWrite16_some_iff t a v).1 h
  · exact State.ctrlWrite_recordKept hreg
  · exact ⟨rfl, rfl, rfl⟩

theorem State.answerWrite_recordKept (s : State) {r : Option State} (hr : ∀ t, r = some t → s.RecordKept t) :
    s.RecordKept (s.answerWrite r) := by
  obtain ⟨t, ht, heq⟩ | ⟨-, heq⟩ := s.answerWrite_cases r
  · obtain ⟨herr, hcode, hinfo⟩ := hr t ht
    rw [heq]
    exact ⟨herr, hcode, hinfo⟩
  · rw [heq]
    exact ⟨rfl, rfl, rfl⟩

/-- The host actions that acknowledge an error: CLRERR, SRESET and hard reset (R272). -/
def HostAction.Acknowledges (act : HostAction) : Prop :=
  act = .write16 0 0x0100 ∨ act = .write16 0 0x0200 ∨ ∃ straps kh image, act = .hardReset straps kh image

theorem perform_recordKept_or_cleared (act : HostAction) {s t : State} (herr : s.err = true)
    (h : perform act s = .next t) : s.RecordKept t ∨ (t.err = false ∧ act.Acknowledges) := by
  cases act with
  | read8 a => cases h; exact .inl ⟨rfl, rfl, rfl⟩
  | read16 a => cases h; exact .inl ⟨rfl, rfl, rfl⟩
  | write8 a v => cases h; exact .inl (s.answerWrite_recordKept fun _ => State.busWrite8_recordKept)
  | write16 a v =>
    by_cases ha : a = 0
    · subst ha
      rw [perform_command] at h
      obtain ⟨hkept, hcode, hinfo⟩ | ⟨hcleared, rfl | rfl⟩ := issue_recordKept_or_cleared (s := s.answer .ok) herr h
      · exact .inl ⟨hkept, hcode, hinfo⟩
      · exact .inr ⟨hcleared, .inl rfl⟩
      · exact .inr ⟨hcleared, .inr (.inl rfl)⟩
    · rw [perform_write16_of_ne ha] at h
      cases h
      exact .inl (s.answerWrite_recordKept fun _ => State.busWrite16_recordKept)
  | hardReset straps kh image => cases h; exact .inr ⟨rfl, .inr (.inr ⟨straps, kh, image, rfl⟩)⟩

theorem step_recordKept_or_cleared {s t : State} (herr : s.err = true) (h : step s = .next t) :
    s.RecordKept t ∨ (t.err = false ∧ ∃ act rest, s.pending = act :: rest ∧ act.Acknowledges) := by
  cases hp : s.pending with
  | nil =>
    rw [step_idle s hp] at h
    cases h
    exact .inl (.refl s)
  | cons act rest =>
    rw [step_action s act rest hp] at h
    obtain ⟨hkept, hcode, hinfo⟩ | ⟨hcleared, hack⟩ := perform_recordKept_or_cleared act (s := s.setPending rest) herr h
    · exact .inl ⟨hkept, hcode, hinfo⟩
    · exact .inr ⟨hcleared, act, rest, rfl, hack⟩

/-- Settles O15: a step keeps the record or is an acknowledgement, one of the three. -/
theorem errStaysUntilAcknowledged : Obligations.ErrStaysUntilAcknowledged := by
  intro s t herr h
  obtain ⟨hkept, hcode, hinfo⟩ | ⟨hcleared, act, rest, hp, hack⟩ := step_recordKept_or_cleared herr h
  · exact .inl ⟨hkept.trans herr, hcode, hinfo⟩
  · refine .inr ⟨hcleared, ?_⟩
    obtain rfl | rfl | ⟨straps, kh, image, rfl⟩ := hack
    · exact .inl ⟨rest, hp⟩
    · exact .inr (.inl ⟨rest, hp⟩)
    · exact .inr (.inr ⟨straps, kh, image, rest, hp⟩)

/-! #### Idling, and the error table -/

/-- Settles O6: the step lemma of an empty pending list. -/
theorem idleStepHoldsState : Obligations.IdleStepHoldsState := step_idle

/-- Settles O13: one row of R261 after the other. -/
theorem errorCodesAndInfo : Obligations.ErrorCodesAndInfo :=
  ⟨fun _ => ⟨rfl, rfl⟩, fun _ _ => ⟨rfl, rfl⟩, ⟨rfl, rfl⟩, fun _ => ⟨rfl, rfl⟩, fun _ => ⟨rfl, rfl⟩,
    fun _ => ⟨rfl, rfl⟩, fun _ => ⟨rfl, rfl⟩, ⟨rfl, rfl⟩, fun _ => ⟨rfl, rfl⟩, fun _ => ⟨rfl, rfl⟩,
    fun _ => ⟨rfl, rfl⟩⟩

end Sys2Proof.Machine

namespace Sys2Proof.Machine

/-! ### Every step answers

The obligation O7 (70_reset_and_hazards.md R300): each layer of the step, the host action and then the pending list,
hands on the next state that the layer below it answers. -/

/-- Only a `CMD` write is carried out by a command; it answers because the issue of every word, legal or not, does
(R72, R90). -/
theorem perform_answers (act : HostAction) (s : State) : ∃ t, perform act s = .next t := by
  cases act with
  | read8 a => exact ⟨_, rfl⟩
  | read16 a => exact ⟨_, rfl⟩
  | write8 a v => exact ⟨_, rfl⟩
  | write16 a v =>
    by_cases ha : a = 0
    · subst ha
      obtain ⟨t, hissue, -⟩ := issue_cmd v (s.answer .ok)
      exact ⟨t, (perform_command v s).trans hissue⟩
    · exact ⟨_, perform_write16_of_ne ha v s⟩
  | hardReset straps kh image => exact ⟨_, rfl⟩

/-- Settles O7, by the pending list: an idle step holds the state, and any other step is one host action. -/
theorem everyStepAnswers : Obligations.EveryStepAnswers := by
  intro s
  cases hp : s.pending with
  | nil => exact ⟨s, step_idle s hp⟩
  | cons act rest =>
    obtain ⟨t, hperform⟩ := perform_answers act (s.setPending rest)
    exact ⟨t, (step_action s act rest hp).trans hperform⟩

end Sys2Proof.Machine
